-- ==== Sys2Proof/Word.lean ====
section
/-! DEFINITION. The words that hold the block's fields and port values (spec/00_scope.md R5, spec/10_state.md R20,
spec/30_encoding.md R70, R74 to R77), at the widths this hardware takes, and what the host can put on an input port. The
widths as parameters stand in Config, and the operations of Machine/Ops.lean keep a value to them (entry 8). -/

namespace Sys2Proof

/-- A tick: an unsigned timestamp in microseconds, modulo 2^32 (R6; `TICK_BITS` = 32 of R5). -/
abbrev Tick := BitVec 32

/-- `bit_index`: 8 bits, two's complement (R23; `BIDX_BITS` = 8 of R5). -/
abbrev BitIndex := BitVec 8

/-- `checksum_accum`: 17 bits, unsigned (R24; `CHK_BITS` = 17 of R5). -/
abbrev ChkAccum := BitVec 17

/-- `temperature_accum` and `humidity_accum`: 16 bits, unsigned (R25, R26; `ACC_BITS` = 16 of R5). -/
abbrev Accum := BitVec 16

/-- A command word CMD: 35 bits, `op[34:32]` and `tick[31:0]` (R70). -/
abbrev CmdWord := BitVec 35

/-- The input of the tick-difference port: 64 bits, `earlier[63:32]` and `later[31:0]` (R74). -/
abbrev TdWord := BitVec 64

/-- The frame word: 34 bits (R76). -/
abbrev FrameWord := BitVec 34

/-- The response word RSP: 37 bits (R75). -/
abbrev RspWord := BitVec 37

/-- What the host puts on one of the block's two input ports: a command word on the command port (R70), or two
ticks on the combinational port TD (R74). -/
inductive PortInput where
  | cmd (w : CmdWord)
  | td (w : TdWord)
  deriving DecidableEq, Repr

end Sys2Proof
end

