-- ==== Sys2Proof/Syntax.lean ====
section
/-! DEFINITION. The operations of the block: one constructor per row of spec/opcode_table.json (R71, R74, R85). -/

namespace Sys2Proof

/-- The rows of the opcode table. READ and RESET have no operand: their tick field is don't-care (R79), and the
decoder drops it as R84 does. The reserved rows carry nothing either (R78). -/
inductive Instr where
  /-- RISE, EV_RISING: an edge event of kind Rising (R71, R123). -/
  | rise (tick : Tick)
  /-- FALL, EV_FALLING: an edge event of kind Falling (R71, R122). -/
  | fall (tick : Tick)
  /-- EITHER, EV_EITHER: the watchdog timeout (R71, R124). -/
  | either (tick : Tick)
  /-- READ: snapshot of the DecodedFrame (R71, R126). -/
  | read
  /-- RESET: reset of the block (R71, R200). -/
  | reset
  /-- RESERVED_3, op 0b011: names no operation (R78). -/
  | reserved3
  /-- RESERVED_6, op 0b110: names no operation (R78). -/
  | reserved6
  /-- RESERVED_7, op 0b111: names no operation (R78). -/
  | reserved7
  /-- TDIFF: one evaluation of the TD port (R74, R101). -/
  | tdiff (earlier later : Tick)
  deriving DecidableEq, Repr

end Sys2Proof
end

