-- ==== Sys2Proof/Decode.lean ====
section
/-! DEFINITION. From port words to operations and back (spec/30_encoding.md R70 to R74, R78, R79, R81, R84). Every
word of either port decodes to exactly one row; only a word of another length is rejected. -/

namespace Sys2Proof

/-- `CMD[31:0]`, the tick operand (R70, R72). -/
def tickField (w : CmdWord) : Tick := w.extractLsb' 0 32

/-- `CMD[34:32]`, the operation code (R70, R71). -/
def opField (w : CmdWord) : BitVec 3 := w.extractLsb' 32 3

/-- The decoding function of R84, on the three bits of `op` with the most significant first. The reserved codes give
the reserved rows, which no meaning but the refusal of R78 belongs to. -/
def decodeCmd (w : CmdWord) : Instr :=
  match (opField w).getLsbD 2, (opField w).getLsbD 1, (opField w).getLsbD 0 with
  | false, false, false => .rise (tickField w)
  | false, false, true  => .fall (tickField w)
  | false, true,  false => .either (tickField w)
  | false, true,  true  => .reserved3
  | true,  false, false => .read
  | true,  false, true  => .reset
  | true,  true,  false => .reserved6
  | true,  true,  true  => .reserved7

/-- The TD port has no opcode: every input is TDIFF of its two halves (R74). -/
def decodeTd (w : TdWord) : Instr := .tdiff (w.extractLsb' 32 32) (w.extractLsb' 0 32)

/-- The operation a port input stands for. -/
def decode (p : PortInput) : Instr :=
  match p with
  | .cmd w => decodeCmd w
  | .td w => decodeTd w

/-- The canonical port input of a row (R82): the don't-care tick field of READ, RESET and the reserved rows is 0. -/
def encode (i : Instr) : PortInput :=
  match i with
  | .rise t => .cmd (0b000#3 ++ t)
  | .fall t => .cmd (0b001#3 ++ t)
  | .either t => .cmd (0b010#3 ++ t)
  | .reserved3 => .cmd (0b011#3 ++ 0#32)
  | .read => .cmd (0b100#3 ++ 0#32)
  | .reset => .cmd (0b101#3 ++ 0#32)
  | .reserved6 => .cmd (0b110#3 ++ 0#32)
  | .reserved7 => .cmd (0b111#3 ++ 0#32)
  | .tdiff e l => .td (e ++ l)

/-- Why a word of `nbits` bits is no port input. -/
inductive DecodeReject where
  /-- The word has more bits than either port (R70: "there is no other length"; R74). -/
  | noSuchLength
  /-- A bit is set above the port's width: no wire carries it. -/
  | bitsAboveThePort
  deriving DecidableEq, Repr

/-- The port input a word is, by its length in bits as whole bytes hold it: 33 to 40 bits, the 35-bit command word
(R70); else, up to 64 bits, the TD input (R74), of which a shorter word gives the low bits (entry 11). -/
def portInput (nbits w : Nat) : Except DecodeReject PortInput :=
  if 33 ≤ nbits ∧ nbits ≤ 40 then
    if w < 2 ^ 35 then .ok (.cmd (BitVec.ofNat 35 w)) else .error .bitsAboveThePort
  else if nbits ≤ 64 then
    if w < 2 ^ 64 then .ok (.td (BitVec.ofNat 64 w)) else .error .bitsAboveThePort
  else .error .noSuchLength

/-- The operation read from a word of the opcode table. -/
def decodeTableWord (nbits w : Nat) : Option Instr :=
  match portInput nbits w with
  | .ok p => some (decode p)
  | .error _ => none

end Sys2Proof
end

