-- ==== Sys2Proof/Config.lean ====
section
/-! DEFINITION. The block's parameters, one field for each row of the table of spec/00_scope.md R5: fixed when the
block is built. The block leaves no value open, so there is no free value here. -/

namespace Sys2Proof

/-- The two legal values of `DB_MAX_TICK`, the wrap offset of the debounce formula (R30, R103). -/
inductive DbMaxTick where
  /-- 2^32, the value this hardware takes (R5). -/
  | pow32
  /-- 2^32 - 1, the other reading of 90_conflicts.md C2. -/
  | pow32LessOne
  deriving DecidableEq, Repr

/-- The parameters of R5. The first seven are those R30 calls the block's only control registers; the others size
the block. -/
structure Config where
  /-- `FALL_TH`: a falling edge with `diff > FALL_TH` starts a frame. -/
  fallTh : Tick
  /-- `BIT1_TH`: a rising edge with `diff >= BIT1_TH` reads as bit 1. -/
  bit1Th : Tick
  /-- `LONG_TH`: a rising edge with `diff >= LONG_TH` forces a bad checksum. -/
  longTh : Tick
  /-- `CHK_SENTINEL`: the value forced into `checksum_accum` on a long pulse. -/
  chkSentinel : ChkAccum
  /-- `DB_EN`: the debounce stage stands in front of the frame decoder. -/
  dbEn : Bool
  /-- `DB_TH`: the debounce threshold. -/
  dbTh : Tick
  /-- `DB_MAX_TICK`: the wrap offset of the debounce formula. -/
  dbMaxTick : DbMaxTick
  /-- `TICK_BITS`: the width of a tick. -/
  tickBits : Nat
  /-- `TICK_MOD`: the modulus of tick arithmetic. -/
  tickMod : Nat
  /-- `FRAME_BITS`: the data bits of a frame. -/
  frameBits : Nat
  /-- `PREFRAME`: the pre-frame sentinel of `bit_index`. -/
  preframe : BitIndex
  /-- `CHK_BITS`: the width of `checksum_accum`. -/
  chkBits : Nat
  /-- `ACC_BITS`: the width of `temperature_accum` and `humidity_accum`. -/
  accBits : Nat
  /-- `BIDX_BITS`: the width of `bit_index`, in two's complement. -/
  bidxBits : Nat
  deriving DecidableEq, Repr

/-- The values this hardware takes (the value column of R5). -/
def Config.default : Config where
  fallTh := 250000
  bit1Th := 50
  longTh := 200
  chkSentinel := 256
  dbEn := false
  dbTh := 100000
  dbMaxTick := .pow32
  tickBits := 32
  tickMod := 4294967296
  frameBits := 40
  preframe := -2
  chkBits := 17
  accBits := 16
  bidxBits := 8

/-- The legal settings of the control registers (R30). The other six hold only legal values by their types. -/
abbrev Config.Legal (c : Config) : Prop :=
  256 ≤ c.chkSentinel.toNat ∧ c.chkSentinel.toNat ≤ 511

/-- The block has the sizes of R5, the only ones the spec gives and the ones its rules are written with (R6, R20, R23
to R27, R33, R123: 32-bit ticks, 40 bits, -2, `[16:0]`, `[15:0]`, 8 bits). -/
abbrev Config.Sized (c : Config) : Prop :=
  c.tickBits = 32 ∧ c.tickMod = 4294967296 ∧ c.frameBits = 40 ∧ c.preframe = -2 ∧ c.chkBits = 17 ∧ c.accBits = 16 ∧
    c.bidxBits = 8

end Sys2Proof
end

