-- ==== Sys2Proof/Machine/State.lean ====
section
/-! DEFINITION. The state (spec/10_state.md R20 to R32), the reasons a step can stop (R78, R173), and the state after
reset (spec/70_reset_and_hazards.md R200, R201). -/

namespace Sys2Proof.Machine

/-- The error codes the block has (R77). Code 0b11 is reserved and never produced (R80): no name stands for it. -/
inductive ErrorKind where
  /-- NoError, 0b00: a complete frame whose checksum matched. -/
  | noError
  /-- IncompleteFrame, 0b01: fewer than 40 bits when READ came. Computed by READ, never stored (R28). -/
  | incompleteFrame
  /-- ChecksumMismatch, 0b10: 40 bits, and the byte sum check failed. -/
  | checksumMismatch
  deriving DecidableEq, Repr

/-- The state of the frame decoder FD: the source's DecodeState (R20). -/
structure FdState where
  /-- `bit_index`: the position of the next bit the rising-edge handler will see (R23). -/
  bitIndex : BitIndex
  /-- `checksum_accum` (R24). -/
  checksumAccum : ChkAccum
  /-- `temperature_accum` (R25). -/
  temperatureAccum : Accum
  /-- `humidity_accum` (R26). -/
  humidityAccum : Accum
  /-- `last_high_tick`: the tick of the latest FALL the decoder processed (R27). -/
  lastHighTick : Tick
  /-- `error` (R28). -/
  error : ErrorKind
  deriving DecidableEq, Repr

/-- The state of the debounce stage DB (R20, R29). -/
structure DbState where
  /-- `last_accepted_tick`: the tick of the latest event the stage accepted. -/
  lastAcceptedTick : Tick
  deriving DecidableEq, Repr

/-- The fields of the response word RSP (R75). -/
structure Response where
  /-- `db_pass`: the event reached the frame decoder. -/
  dbPass : Bool
  /-- `wd_disable`: the host is asked to disable its watchdog. -/
  wdDisable : Bool
  /-- `frame_valid`: the response carries a frame word. -/
  frameValid : Bool
  /-- `frame`: the frame word of R76, or 0. -/
  frame : FrameWord
  deriving DecidableEq, Repr

/-- The response in which nothing is driven: a field no statement drives is 0 (R75). -/
def Response.undriven : Response where
  dbPass := false
  wdDisable := false
  frameValid := false
  frame := 0

/-- The machine: the block's state (`fd`, `db`: R20), its read-only control registers (`cfg`: R30), and the model's
own record of its ports (`stream`, `rsp`, `tdOut`: no state of the block). -/
structure State where
  /-- The frame decoder's fields (R20). -/
  fd : FdState
  /-- The debounce stage's field (R20). -/
  db : DbState
  /-- The parameters, fixed when the block is built (R5, R30). DESIGN CHOICE (entry 1): carried in the state, since
  a step takes nothing else; safe. -/
  cfg : Config
  /-- What the host has presented and the block has not taken yet, oldest first (R58, R63). DESIGN CHOICE (entry 2),
  safe. -/
  stream : List PortInput
  /-- The response of the latest command (R75). DESIGN CHOICE (entry 3): before the first command it is undriven;
  unsafe. -/
  rsp : Response
  /-- `TD_OUT` of the latest evaluation of the TD port (R74). DESIGN CHOICE (entry 3): 0 before the first; unsafe. -/
  tdOut : Tick
  deriving DecidableEq, Repr

/-- The frame decoder as RESET and power-on leave it (R20, R200): `bit_index` at the pre-frame sentinel `PREFRAME`. -/
def FdState.initial (c : Config) : FdState where
  bitIndex := c.preframe
  checksumAccum := 0
  temperatureAccum := 0
  humidityAccum := 0
  lastHighTick := 0
  error := .noError

/-- The debounce stage as RESET and power-on leave it (R20, R200). -/
def DbState.initial : DbState where
  lastAcceptedTick := 0

/-- A block built with parameters `c`, at power-on or as a new instance (R201): the state RESET writes, nothing
presented and nothing driven yet. -/
def State.powerOn (c : Config) : State where
  fd := FdState.initial c
  db := DbState.initial
  cfg := c
  stream := []
  rsp := Response.undriven
  tdOut := 0

/-- The machine right after reset, with the parameter values of R5. -/
def State.reset : State := State.powerOn Config.default

/-- Reasons a step stops with a fault. There are none: "The block has no exceptions, interrupts or traps" (R170), and
no item of the block maps to a fault (spec/93_implementation_defined.md). Nothing raises one. -/
inductive Fault where
  deriving DecidableEq, Repr

/-- Reasons an operation has no meaning. -/
inductive Refusal where
  /-- Raised by an arm of `exec` for an instruction that has no meaning yet; no arm does so in this model. Safe: the
  model stops where the hardware goes on. -/
  | notModelled (mnemonic : String)
  /-- `refuse(ReservedOp)`: raised by the reserved rows, op 0b011, 0b110 and 0b111 (R78, R173): no step, no state
  change, no response. Safe: no claim about such a run can be proved. -/
  | reservedOp
  deriving DecidableEq, Repr

end Sys2Proof.Machine
end

