-- ==== Sys2Proof/Machine/Ops.lean ====
section
/-! DEFINITION. The operations the meanings share: tick_diff (R100), the debounce stage (R102 to R106), one event
through debounce stage and frame decoder (R120), and the frame start (R122). The block has no exception entry and no
return from one (R170), and no memory (R50), so there are no such operations. -/

namespace Sys2Proof.Machine

/-- The low `n` bits of a register's value. A register is held at the width the block has; a build with a smaller
width keeps only that many bits (entry 8). -/
def keepBits {w : Nat} (n : Nat) (x : BitVec w) : BitVec w := (x.setWidth n).setWidth w

/-- A tick as the block takes it: `TICK_BITS` bits (R5, R6). -/
def tickOf (c : Config) (tick : Tick) : Tick := keepBits c.tickBits tick

/-- A position as `bit_index` holds it: `BIDX_BITS` bits, two's complement (R5, R23). -/
def indexOf (c : Config) (position : Int) : BitIndex := BitVec.ofInt 8 (position.bmod (2 ^ c.bidxBits))

/-- tick_diff of R100: `(later - earlier) mod TICK_MOD`. -/
def tickDiff (c : Config) (earlier later : Tick) : Tick :=
  BitVec.ofInt 32 (((tickOf c later).toNat - (tickOf c earlier).toNat : Int) % c.tickMod)

/-- The value of `DB_MAX_TICK` as an integer (R30). -/
def dbMaxTickValue (m : DbMaxTick) : Nat :=
  match m with
  | .pow32 => 2 ^ 32
  | .pow32LessOne => 2 ^ 32 - 1

/-- db_elapsed of R103: a mathematical integer (R111). The natural subtraction is exact, as
`last_accepted_tick <= 2^32 - 1 <= DB_MAX_TICK`. -/
def dbElapsed (c : Config) (lastAccepted tick : Tick) : Nat :=
  let last := (tickOf c lastAccepted).toNat
  let now := (tickOf c tick).toNat
  if now < last then dbMaxTickValue c.dbMaxTick - last + now else now - last

/-- The verdict of DB_STAGE (R104): true is PASS. With `DB_EN = 0` every event passes (R102). -/
def dbPasses (c : Config) (d : DbState) (tick : Tick) : Bool :=
  if c.dbEn then decide (c.dbTh.toNat < dbElapsed c d.lastAcceptedTick tick) else true

/-- What DB_STAGE leaves in its field when the event passes (R104, R105): the event's tick, or with `DB_EN = 0` the
field as it was (R29). -/
def dbAccept (c : Config) (d : DbState) (tick : Tick) : DbState :=
  if c.dbEn then { d with lastAcceptedTick := tickOf c tick } else d

/-- The response of an event the debounce stage filtered (R104): nothing is driven. -/
def Response.filtered : Response := Response.undriven

/-- The response of an event that reached the frame decoder (R104, R75). -/
def Response.passed (wdDisable : Bool) : Response where
  dbPass := true
  wdDisable := wdDisable
  frameValid := false
  frame := 0

/-- One event command as one atomic step (R56, R120): DB_STAGE first; on PASS the frame decoder's fields become `fd'`
and its watchdog request is `wdDisable`; on FILTERED nothing changes but the response (R106). -/
def runEvent (tick : Tick) (fd' : FdState) (wdDisable : Bool) (s : State) : Host.Outcome State Fault Refusal :=
  if dbPasses s.cfg s.db tick then
    .next { s with fd := fd', db := dbAccept s.cfg s.db tick, rsp := Response.passed wdDisable }
  else
    .next { s with rsp := Response.filtered }

/-- The frame decoder's writes at a frame start (R122): the pre-frame sentinel `PREFRAME`, the accumulators 0, `error` NoError.
`last_high_tick` is written apart. -/
def startFrame (c : Config) (f : FdState) : FdState :=
  { f with bitIndex := c.preframe, checksumAccum := 0, temperatureAccum := 0, humidityAccum := 0, error := .noError }

/-- The conceptual states of the frame decoder (R38). -/
inductive Phase where
  | preFrame
  | receivingHumidity
  | humidityFraction
  | receivingTemperature
  | temperatureFraction
  | receivingChecksum
  | complete
  deriving DecidableEq, Repr

/-- The phase a `bit_index` stands for (R38); Complete from `FRAME_BITS` on. -/
def phaseOf (c : Config) (b : BitIndex) : Phase :=
  if b.toInt < 0 then .preFrame
  else if b.toInt ≤ 7 then .receivingHumidity
  else if b.toInt ≤ 15 then .humidityFraction
  else if b.toInt ≤ 23 then .receivingTemperature
  else if b.toInt ≤ 31 then .temperatureFraction
  else if b.toInt < c.frameBits then .receivingChecksum
  else .complete

end Sys2Proof.Machine
end

