-- ==== Sys2Proof/Machine/Operands.lean ====
section
/-! DEFINITION. What the meanings make of a tick operand: the time since the latest falling edge (R121), the bit value
and the long pulse of a rising edge (R123), and the shift that takes a bit into an accumulator (R52, R123). -/

namespace Sys2Proof.Machine

/-- `diff` of an edge event (R121): measured from `last_high_tick` as it was before the command writes anything. -/
def edgeDiff (c : Config) (f : FdState) (tick : Tick) : Tick := tickDiff c f.lastHighTick tick

/-- The falling edge starts a frame: `diff > FALL_TH`, strictly (R11, R122). -/
def isFrameStart (c : Config) (f : FdState) (tick : Tick) : Bool := decide (c.fallTh < edgeDiff c f tick)

/-- The bit value of a rising edge: 1 if `diff >= BIT1_TH` (R11, R123). -/
def bitValue (c : Config) (f : FdState) (tick : Tick) : Bool := decide (c.bit1Th ≤ edgeDiff c f tick)

/-- The rising edge ends a long pulse: `diff >= LONG_TH` (R11, R123). -/
def isLongPulse (c : Config) (f : FdState) (tick : Tick) : Bool := decide (c.longTh ≤ edgeDiff c f tick)

/-- `((x << 1) | bv)[n-1:0]`, with `n` the accumulator's width parameter (R5, R123). -/
def shiftIn {w : Nat} (n : Nat) (x : BitVec w) (bv : Bool) : BitVec w :=
  keepBits n ((x <<< 1) ||| BitVec.setWidth w (BitVec.ofBool bv))

/-- A long pulse forces `checksum_accum` to `CHK_SENTINEL`, at any position and before the dispatch (R123). -/
def forceChecksum (c : Config) (tick : Tick) (f : FdState) : FdState :=
  if isLongPulse c f tick then { f with checksumAccum := keepBits c.chkBits c.chkSentinel } else f

end Sys2Proof.Machine
end

