-- ==== Sys2Proof/Machine/Flags.lean ====
section
/-! DEFINITION. The block's status: error codes (R77), the checksum comparison (R125), the classification READ makes
(R126, R177), and the layout of the frame word (R76) and of the response word (R75). -/

namespace Sys2Proof.Machine

/-- The 2-bit code of an error kind (R77). -/
def errorCode (e : ErrorKind) : BitVec 2 :=
  match e with
  | .noError => 0b00
  | .incompleteFrame => 0b01
  | .checksumMismatch => 0b10

/-- The byte sum: humidity plus temperature, taken in 17 bits, its low 8 bits kept (R125). -/
def byteSum (f : FdState) : ChkAccum :=
  (f.humidityAccum.setWidth 17 + f.temperatureAccum.setWidth 17) &&& 0xFF

/-- chk_ok of R125: the byte sum equals the whole 17-bit `checksum_accum`. -/
def chkOk (f : FdState) : Bool := byteSum f == f.checksumAccum

/-- The comparison the 40th bit makes (R123): a mismatch is recorded, else `error` is left as it is. -/
def judgeChecksum (f : FdState) : FdState :=
  if chkOk f then f else { f with error := .checksumMismatch }

/-- The error READ reports (R126, R177): ChecksumMismatch first, then IncompleteFrame, then the stored value. -/
def classify (c : Config) (f : FdState) : ErrorKind :=
  if f.error = .checksumMismatch then .checksumMismatch
  else if f.bitIndex.toInt < c.frameBits then .incompleteFrame
  else f.error

/-- The frame word `{error, temperature, humidity}` (R76). -/
def frameWord (e : ErrorKind) (temperature humidity : Accum) : FrameWord :=
  errorCode e ++ temperature ++ humidity

/-- The response of READ (R126). -/
def Response.ofRead (c : Config) (f : FdState) : Response where
  dbPass := false
  wdDisable := false
  frameValid := true
  frame := frameWord (classify c f) f.temperatureAccum f.humidityAccum

/-- The response word RSP: `db_pass`, `wd_disable`, `frame_valid`, `frame`, from the top (R75). -/
def rspWord (r : Response) : RspWord :=
  BitVec.ofBool r.dbPass ++ BitVec.ofBool r.wdDisable ++ BitVec.ofBool r.frameValid ++ r.frame

end Sys2Proof.Machine
end

