-- ==== Sys2Proof/Machine/Control.lean ====
section
/-! DEFINITION. READ (spec/41_frame_decoder.md R126) and RESET (spec/70_reset_and_hazards.md R200): the commands that
are no events, and do not pass through the debounce stage (R102). -/

namespace Sys2Proof.Machine

/-- READ (R126): a snapshot; no field changes. -/
def execRead (s : State) : Host.Outcome State Fault Refusal :=
  .next { s with rsp := Response.ofRead s.cfg s.fd }

/-- RESET (R200): every field of R20 takes its reset value, the response is all 0, and the parameters stay (R202). -/
def execReset (s : State) : Host.Outcome State Fault Refusal :=
  .next { s with fd := FdState.initial s.cfg, db := DbState.initial, rsp := Response.undriven }

end Sys2Proof.Machine
end

