-- ==== Sys2Proof/Machine/Event.lean ====
section
/-! DEFINITION. The event commands FALL, RISE and EITHER (spec/41_frame_decoder.md R120 to R124). -/

namespace Sys2Proof.Machine

/-- The frame decoder's part of FALL (R122): `last_high_tick` always; the rest only at a frame start, judged on the
`diff` from before the write. -/
def fallFd (c : Config) (tick : Tick) (f : FdState) : FdState :=
  if isFrameStart c f tick then { startFrame c f with lastHighTick := tickOf c tick }
  else { f with lastHighTick := tickOf c tick }

/-- FALL (R122): `wd_disable` is 0. -/
def execFall (tick : Tick) (s : State) : Host.Outcome State Fault Refusal :=
  runEvent tick (fallFd s.cfg tick s.fd) false s

/-- The dispatch of R123 below position `FRAME_BITS` = 40: which accumulator takes the bit, and what happens to
`error`; the last bit also judges the checksum. Positions -2, -1, 8 to 15 and 24 to 31 take nothing; neither does one
below -2, which no run reaches (entry 6). -/
def takeBit (c : Config) (bv : Bool) (f : FdState) : FdState :=
  if 32 ≤ f.bitIndex.toInt ∧ f.bitIndex.toInt < c.frameBits then
    if f.bitIndex.toInt = c.frameBits - 1 then
      judgeChecksum { f with checksumAccum := shiftIn c.chkBits f.checksumAccum bv }
    else { f with checksumAccum := shiftIn c.chkBits f.checksumAccum bv }
  else if 16 ≤ f.bitIndex.toInt ∧ f.bitIndex.toInt ≤ 23 then
    { f with temperatureAccum := shiftIn c.accBits f.temperatureAccum bv, error := .noError }
  else if 0 ≤ f.bitIndex.toInt ∧ f.bitIndex.toInt ≤ 7 then
    { f with humidityAccum := shiftIn c.accBits f.humidityAccum bv, error := .noError }
  else f

/-- The step of `bit_index` around the dispatch (R123): clamped to `FRAME_BITS` once it is that or more, and the bit
ignored; else the bit is taken and `bit_index` goes up by 1. -/
def dispatchBit (c : Config) (bv : Bool) (f : FdState) : FdState :=
  if (c.frameBits : Int) ≤ f.bitIndex.toInt then { f with bitIndex := indexOf c c.frameBits }
  else { takeBit c bv f with bitIndex := indexOf c (f.bitIndex.toInt + 1) }

/-- The frame decoder's part of RISE (R123): the long-pulse force, then the dispatch (R176). -/
def riseFd (c : Config) (tick : Tick) (f : FdState) : FdState :=
  dispatchBit c (bitValue c f tick) (forceChecksum c tick f)

/-- RISE (R123): `wd_disable` is 1 exactly when the bit is the last of the frame, at position
`FRAME_BITS` - 1 = 39. -/
def execRise (tick : Tick) (s : State) : Host.Outcome State Fault Refusal :=
  runEvent tick (riseFd s.cfg tick s.fd) (decide (s.fd.bitIndex.toInt = s.cfg.frameBits - 1)) s

/-- EITHER, the watchdog timeout (R124): no field of the frame decoder is read or written; the host is asked to
disable its watchdog. -/
def execEither (tick : Tick) (s : State) : Host.Outcome State Fault Refusal :=
  runEvent tick s.fd true s

end Sys2Proof.Machine
end

