-- ==== Sys2Proof/Machine/Reserved.lean ====
section
/-! DEFINITION. The reserved rows (spec/30_encoding.md R78): `refuse(ReservedOp)`, with no step, no state change and
no response. -/

namespace Sys2Proof.Machine

/-- RESERVED_3, op 0b011 (R78). -/
def execReserved3 (_s : State) : Host.Outcome State Fault Refusal := .refused .reservedOp

/-- RESERVED_6, op 0b110 (R78). -/
def execReserved6 (_s : State) : Host.Outcome State Fault Refusal := .refused .reservedOp

/-- RESERVED_7, op 0b111 (R78). -/
def execReserved7 (_s : State) : Host.Outcome State Fault Refusal := .refused .reservedOp

end Sys2Proof.Machine
end

