-- ==== Sys2Proof/Machine/Tick.lean ====
section
/-! DEFINITION. The tick-difference port: TDIFF (spec/40_tick_arithmetic.md R101). -/

namespace Sys2Proof.Machine

/-- TDIFF (R101): drives `TD_OUT` and touches no field of the block, and no response field (R74). -/
def execTdiff (earlier later : Tick) (s : State) : Host.Outcome State Fault Refusal :=
  .next { s with tdOut := tickDiff s.cfg earlier later }

end Sys2Proof.Machine
end

