-- ==== Sys2Proof/Machine/Dispatch.lean ====
section
/-! DEFINITION. Which meaning each row of the opcode table has. -/

namespace Sys2Proof.Machine

def exec (i : Instr) (s : State) : Host.Outcome State Fault Refusal :=
  match i with
  | .rise tick => Sys2Proof.Machine.execRise tick s
  | .fall tick => Sys2Proof.Machine.execFall tick s
  | .either tick => Sys2Proof.Machine.execEither tick s
  | .read => Sys2Proof.Machine.execRead s
  | .reset => Sys2Proof.Machine.execReset s
  | .reserved3 => Sys2Proof.Machine.execReserved3 s
  | .reserved6 => Sys2Proof.Machine.execReserved6 s
  | .reserved7 => Sys2Proof.Machine.execReserved7 s
  | .tdiff earlier later => Sys2Proof.Machine.execTdiff earlier later s

end Sys2Proof.Machine
end

