-- ==== Sys2Proof/Machine/Port.lean ====
section
/-! DEFINITION. The block at its ports: what is executed next, and how the host presents an operation (R51, R58, R63,
R73, R184). -/

namespace Sys2Proof.Machine

/-- One step at the ports: the oldest presented input is taken and its operation executed (R58). With nothing
presented the block "holds its state unchanged and does nothing" (R184). -/
def takeNext (s : State) : Host.Outcome State Fault Refusal :=
  match s.stream with
  | [] => .next s
  | p :: rest => exec (decode p) { s with stream := rest }

/-- The host presents a word of the opcode table's numbering, ahead of everything else it has presented. A word no
port carries presents nothing. -/
def presentWord (s : State) (nbits w : Nat) : State :=
  match portInput nbits w with
  | .ok p => { s with stream := p :: s.stream }
  | .error _ => s

/-- The kinds of edge event (R10, R73). -/
inductive EdgeKind where
  | rising
  | falling
  | either
  deriving DecidableEq, Repr

/-- The kind codes, `op[1:0]` of an event command (R73). -/
def kindCode (k : EdgeKind) : BitVec 2 :=
  match k with
  | .rising => 0
  | .falling => 1
  | .either => 2

/-- The command the host's edge source makes of a notification: kind code and tick put together, `op[2]` 0 (R73). -/
def notification (k : EdgeKind) (tick : Tick) : PortInput := .cmd (0#1 ++ kindCode k ++ tick)

end Sys2Proof.Machine
end

