-- ==== Sys2Proof/Machine/Step.lean ====
section
/-! DEFINITION. The step of the machine, and how an operation comes to be the next one. -/

namespace Sys2Proof.Machine

/-- One step: the next presented operation, or nothing when none is presented. -/
def step (s : State) : Host.Outcome State Fault Refusal := takeNext s

/-- `s` with the operation of word `w` presented as the next one (entry 2). -/
def State.withFetchWord (s : State) (nbits w : Nat) : State := presentWord s nbits w

end Sys2Proof.Machine
end

