-- ==== Sys2Proof/Machine/Assembler.lean ====
section
/-! DEFINITION. The assembler lines of spec/30_encoding.md R82, whose words `encode` gives, and the pseudo-instructions
of R83: each a list of commands, with tick sums modulo 2^32. -/

namespace Sys2Proof.Machine

/-- The line R82 writes for an operation, ticks in decimal. A reserved row has no line. -/
def asmLine (i : Instr) : Option String :=
  match i with
  | .rise t => some ("RISE " ++ toString t.toNat)
  | .fall t => some ("FALL " ++ toString t.toNat)
  | .either t => some ("EITHER " ++ toString t.toNat)
  | .read => some "READ"
  | .reset => some "RESET"
  | .reserved3 => none
  | .reserved6 => none
  | .reserved7 => none
  | .tdiff e l => some ("TDIFF " ++ toString e.toNat ++ ", " ++ toString l.toNat)

/-- WDTO: the watchdog timeout, `EITHER 0`. -/
def pseudoWdto : List Instr := [.either 0]

/-- BIT0 t: a 0 bit as a short high pulse of 27 ticks. -/
def pseudoBit0 (t : Tick) : List Instr := [.fall t, .rise (t + 27)]

/-- BIT1 t: a 1 bit as a long high pulse of 70 ticks. -/
def pseudoBit1 (t : Tick) : List Instr := [.fall t, .rise (t + 70)]

/-- LONG t: an anomalous pulse of 230 ticks. -/
def pseudoLong (t : Tick) : List Instr := [.fall t, .rise (t + 230)]

/-- START t: host start pulse and sensor response. -/
def pseudoStart (t : Tick) : List Instr :=
  [.rise t, .fall (t + 18000), .rise (t + 18030), .fall (t + 18110), .rise (t + 18190)]

end Sys2Proof.Machine
end

