-- ==== Sys2Proof/WellFormed.lean ====
section
/-! DEFINITION. Which rows name an operation of the block (R71, R78, R85): what a host may present (R190 (b)). -/

namespace Sys2Proof

/-- The row names an operation: it is none of the three reserved rows (R78). Every operand is a whole port field of
fixed width (R55), so there is nothing else to check. -/
def Instr.wellFormed (i : Instr) : Bool :=
  match i with
  | .rise _ => true
  | .fall _ => true
  | .either _ => true
  | .read => true
  | .reset => true
  | .reserved3 => false
  | .reserved6 => false
  | .reserved7 => false
  | .tdiff _ _ => true

end Sys2Proof
end

