-- ==== Sys2Proof/Safety.lean ====
section
/-! DEFINITION. What counts as a sound state and a safe run: the invariants of spec/10_state.md R33 to R36, sequences
of operations in the one total order of R58, and the stretch of a run that stays within one frame (R127, R207). -/

namespace Sys2Proof.Machine

/-- The frame decoder's reachable states, made inductive: R33, the bounds of R34 and R35 position by position, R36,
and that IncompleteFrame is never stored (R28). -/
abbrev FdState.Inv (c : Config) (f : FdState) : Prop :=
  -2 ≤ f.bitIndex.toInt ∧ f.bitIndex.toInt ≤ 40
  ∧ f.humidityAccum.toNat < 2 ^ (min f.bitIndex.toInt 8).toNat
  ∧ f.temperatureAccum.toNat < 2 ^ (min (f.bitIndex.toInt - 16) 8).toNat
  ∧ f.checksumAccum.toNat < (c.chkSentinel.toNat + 1) * 2 ^ (f.bitIndex.toInt - 32).toNat
  ∧ (f.error = .checksumMismatch → f.bitIndex.toInt = 40)
  ∧ f.error ≠ .incompleteFrame

/-- The invariant of the machine: the sizes of R5, legal parameters (R30) and a frame decoder as runs leave it. -/
abbrev State.Inv (s : State) : Prop := s.cfg.Sized ∧ s.cfg.Legal ∧ s.fd.Inv s.cfg

/-- Operations one after another, each seeing every effect of the earlier ones (R58); a refusal ends the run for good
(R173). -/
def execAll (is : List Instr) (s : State) : Host.Outcome State Fault Refusal :=
  match is with
  | [] => .next s
  | i :: rest =>
    match exec i s with
    | .next t => execAll rest t
    | .fault r => .fault r
    | .refused r => .refused r

/-- The operation begins a new frame in state `s`: RESET, or a FALL that passes the debounce stage and whose `diff`
exceeds `FALL_TH` (R122, R200). -/
def beginsFrame (i : Instr) (s : State) : Bool :=
  match i with
  | .fall tick => dbPasses s.cfg s.db tick && isFrameStart s.cfg s.fd tick
  | .reset => true
  | .rise _ => false
  | .either _ => false
  | .read => false
  | .reserved3 => false
  | .reserved6 => false
  | .reserved7 => false
  | .tdiff _ _ => false

/-- The operations, run from `s`, are never refused and none begins a new frame. -/
def withinFrame (is : List Instr) (s : State) : Bool :=
  match is with
  | [] => true
  | i :: rest =>
    !beginsFrame i s &&
      match exec i s with
      | .next t => withinFrame rest t
      | .fault _ => false
      | .refused _ => false

/-- The host keeps duty (b) of R190: everything it has presented names an operation. -/
def State.hostKeepsToOperations (s : State) : Bool := s.stream.all fun p => (decode p).wellFormed

/-- The block `k` ticks later: both stored ticks moved on by `k`, modulo 2^32. -/
def shiftState (k : Tick) (s : State) : State :=
  { s with
    fd := { s.fd with lastHighTick := s.fd.lastHighTick + k }
    db := { s.db with lastAcceptedTick := s.db.lastAcceptedTick + k } }

/-- The operation with every tick operand moved on by `k`, modulo 2^32. -/
def shiftInstr (k : Tick) (i : Instr) : Instr :=
  match i with
  | .rise t => .rise (t + k)
  | .fall t => .fall (t + k)
  | .either t => .either (t + k)
  | .read => .read
  | .reset => .reset
  | .reserved3 => .reserved3
  | .reserved6 => .reserved6
  | .reserved7 => .reserved7
  | .tdiff e l => .tdiff (e + k) (l + k)

/-- `f` on the next state, where there is one. -/
def mapNext (f : State → State) (o : Host.Outcome State Fault Refusal) : Host.Outcome State Fault Refusal :=
  match o with
  | .next s => .next (f s)
  | .fault r => .fault r
  | .refused r => .refused r

/-- The operation is an event command with this tick (R73). -/
def isEventAt (i : Instr) (tick : Tick) : Prop := i = .rise tick ∨ i = .fall tick ∨ i = .either tick

/-- The commands of one pulse: the falling edge at `p.1` and the rising edge at `p.2` (R129). -/
def pulse (p : Tick × Tick) : List Instr := [.fall p.1, .rise p.2]

/-- The number of which `bits` are the binary digits, most significant first (R52). -/
def msbFirst (bits : List Bool) : Nat := bits.foldl (fun n b => 2 * n + b.toNat) 0

end Sys2Proof.Machine
end

