-- ==== Sys2Proof/Certificates/Slice0/Obligations.lean ====
section
/-! DEFINITION. The statements for the provers, from the numbered rules of spec/. Where a statement speaks of `stream`,
`rsp` or `tdOut`, these fields are the model's own record of the block's ports (log entries 2 and 3). `Config.Sized` says
that the block has the sizes of R5's value column (32-bit ticks, frames of 40 bits and so on), the only ones the spec
gives and the ones its rules are written with; it is a premise wherever a statement depends on one of them. -/

open Sys2Proof Sys2Proof.Machine

/-- Decode and encode agree: every row is decoded from its canonical input, and every input is the canonical one of
its row, but for the tick field of READ and RESET, don't-care by R79 (R70, R71, R74, R84). That the reserved rows' tick
field is don't-care too, and that their canonical word has it at 0, is the model's choice (log entry 10). -/
def Obligations.DecodeEncodeAgree : Prop :=
  (∀ i : Instr, decode (encode i) = i) ∧
  (∀ w : TdWord, encode (decode (.td w)) = .td w) ∧
  (∀ w : CmdWord, encode (decode (.cmd w)) =
    if opField w = 0b000#3 ∨ opField w = 0b001#3 ∨ opField w = 0b010#3 then .cmd w else .cmd (opField w ++ 0#32))

/-- Words the spec writes out decode to the operation it names for them: R82, the vectors X2 to X6 and DB6, and the
source's TDIFF example. The last two clauses give two of these words to `decodeTableWord`: that a table word of 40 bits
is read as the 35-bit command word, and one of 64 bits as the TD input, is the model's choice (log entry 11). -/
def Obligations.SpecWordsDecode : Prop :=
  decode (.cmd 0x0000F4240#35) = .rise 1000000 ∧ decode (.cmd 0x1000F8890#35) = .fall 1018000 ∧
  decode (.cmd 0x200000000#35) = .either 0 ∧ decode (.cmd 0x4FFFFFFFF#35) = .read ∧
  decode (.cmd 0x5DEADBEEF#35) = .reset ∧ decode (.cmd 0x300000000#35) = .reserved3 ∧
  decode (.cmd 0x600000000#35) = .reserved6 ∧ decode (.cmd 0x7FFFFFFFF#35) = .reserved7 ∧
  decode (.td 0xFFFFFFE80000000C#64) = .tdiff 4294967272 12 ∧
  decodeTableWord 40 0x1000F8890 = some (.fall 1018000) ∧
  decodeTableWord 64 0xFFFFFFE80000000C = some (.tdiff 4294967272 12)

/-- R71 and R72: each operation code selects its operation, with the tick field as its operand where it has one. -/
def Obligations.OpCodesSelectOperations : Prop :=
  ∀ tick : Tick,
    decode (.cmd (0b000#3 ++ tick)) = .rise tick ∧ decode (.cmd (0b001#3 ++ tick)) = .fall tick ∧
    decode (.cmd (0b010#3 ++ tick)) = .either tick ∧ decode (.cmd (0b011#3 ++ tick)) = .reserved3 ∧
    decode (.cmd (0b100#3 ++ tick)) = .read ∧ decode (.cmd (0b101#3 ++ tick)) = .reset ∧
    decode (.cmd (0b110#3 ++ tick)) = .reserved6 ∧ decode (.cmd (0b111#3 ++ tick)) = .reserved7

/-- R73: a notification's command has its kind code in `op[1:0]`, `op[2]` 0 and its tick in the tick field; the
watchdog timeout is EITHER with tick 0. -/
def Obligations.NotificationBecomesEvent : Prop :=
  (∀ tick : Tick, decode (notification .rising tick) = .rise tick ∧ decode (notification .falling tick) = .fall tick ∧
    decode (notification .either tick) = .either tick) ∧
  (∀ (k : EdgeKind) (tick : Tick), notification k tick = .cmd ((0#1 ++ kindCode k) ++ tick)) ∧
  pseudoWdto = [decode (notification .either 0)]

/-- R79: the tick field of READ and RESET is don't-care, and the canonical encodings set it to 0. -/
def Obligations.IgnoredTickHasNoEffect : Prop :=
  (∀ (s : State) (rest : List PortInput) (t u : Tick),
    step { s with stream := .cmd (0b100#3 ++ t) :: rest } = step { s with stream := .cmd (0b100#3 ++ u) :: rest } ∧
    step { s with stream := .cmd (0b101#3 ++ t) :: rest } = step { s with stream := .cmd (0b101#3 ++ u) :: rest }) ∧
  encode .read = .cmd (0b100#3 ++ 0#32) ∧ encode .reset = .cmd (0b101#3 ++ 0#32)

/-- A step runs the decoded operation: the oldest presented input is taken off the stream, decoded and executed
(R58); with nothing presented nothing changes (R184); a word of the opcode table presented with `withFetchWord` is the
next operation. The stream is the model's (log entry 2). -/
def Obligations.StepRunsDecoded : Prop :=
  (∀ (s : State) (p : PortInput) (rest : List PortInput),
    s.stream = p :: rest → step s = exec (decode p) { s with stream := rest }) ∧
  (∀ s : State, s.stream = [] → step s = .next s) ∧
  (∀ (s : State) (nbits w : Nat) (i : Instr),
    decodeTableWord nbits w = some i → step (s.withFetchWord nbits w) = exec i s)

/-- R74, R100 and R101: TDIFF takes every input, drives `TD_OUT` with `(later - earlier) mod 2^32`, and leaves all the
rest. -/
def Obligations.TdiffResult : Prop :=
  ∀ (earlier later : Tick) (s : State), s.cfg.Sized →
    decode (.td (earlier ++ later)) = .tdiff earlier later ∧
    ∃ d : Tick, exec (.tdiff earlier later) s = .next { s with tdOut := d } ∧
      (d.toNat : Int) = ((later.toNat : Int) - earlier.toNat) % 2 ^ 32

/-- TDIFF has no place in the command order (R58, R101): done before a command or after it, the same state results,
and the command answers what it would have answered. That the model puts TDIFF into its stream is log entry 4. -/
def Obligations.TdiffCommutesWithCommands : Prop :=
  ∀ (w : CmdWord) (earlier later : Tick) (s t : State), exec (decode (.cmd w)) s = .next t →
    exec (.tdiff earlier later) t = .next { t with tdOut := tickDiff s.cfg earlier later } ∧
    exec (decode (.cmd w)) { s with tdOut := tickDiff s.cfg earlier later } =
      .next { t with tdOut := tickDiff s.cfg earlier later }

/-- R104 with R105, R106 and R120: DB_STAGE, the first step of every event command. Bypassed, it passes the event and
writes nothing; enabled, it passes and records the event when the elapsed time exceeds `DB_TH`, and the frame decoder
then does what it does with the stage bypassed; else nothing but the response changes, with every field of it 0. -/
def Obligations.DebounceStage : Prop :=
  ∀ (i : Instr) (tick : Tick) (s : State), s.cfg.Sized → isEventAt i tick →
    ∃ t u : State, exec i s = .next t ∧
      exec i { s with cfg := { s.cfg with dbEn := false } } = .next u ∧ u.db = s.db ∧ u.rsp.dbPass = true ∧
      let last := s.db.lastAcceptedTick.toNat
      let maxTick := match s.cfg.dbMaxTick with
        | .pow32 => 4294967296
        | .pow32LessOne => 4294967295
      let elapsed : Int := if tick.toNat < last then maxTick - last + tick.toNat else tick.toNat - last
      if s.cfg.dbEn = false then t = u
      else if (s.cfg.dbTh.toNat : Int) < elapsed then
        t = { s with fd := u.fd, db := { lastAcceptedTick := tick }, rsp := u.rsp }
      else t = { s with rsp := ⟨false, false, false, 0⟩ }

/-- With `DB_MAX_TICK` = 2^32 the debounce elapsed time is tick_diff; with 2^32 - 1 the wrap case is one tick less
(R103, whose equality is marked derived there, and 90_conflicts.md C2). -/
def Obligations.ElapsedIsTickDiff : Prop :=
  ∀ (c : Config) (last tick : Tick), c.Sized →
    dbElapsed { c with dbMaxTick := .pow32 } last tick = (tickDiff c last tick).toNat ∧
    dbElapsed { c with dbMaxTick := .pow32LessOne } last tick + (if tick < last then 1 else 0) =
      (tickDiff c last tick).toNat

/-- The corner cases of the enabled debounce stage under `DB_MAX_TICK` = 2^32 (R108, marked derived; R214): elapsed
equal to `DB_TH` is filtered, one tick more passes, the same tick is filtered, a numerically smaller tick is one wrap
later, the first event after reset passes exactly when its tick exceeds `DB_TH`, and the largest `DB_TH` filters all. -/
def Obligations.DebounceCorners : Prop :=
  ∀ (c : Config) (d : DbState) (tick : Tick), c.Sized → c.dbEn = true → c.dbMaxTick = .pow32 →
    dbPasses c d (d.lastAcceptedTick + c.dbTh) = false ∧
    (c.dbTh ≠ 4294967295 → dbPasses c d (d.lastAcceptedTick + c.dbTh + 1) = true) ∧
    dbPasses c d d.lastAcceptedTick = false ∧
    (tick < d.lastAcceptedTick →
      (dbPasses c d tick = true ↔ c.dbTh.toNat < 4294967296 - d.lastAcceptedTick.toNat + tick.toNat)) ∧
    (dbPasses c DbState.initial tick = true ↔ c.dbTh < tick) ∧
    (c.dbTh = 4294967295 → dbPasses c d tick = false)

/-- The watchdog timeout under debounce (R107, marked derived; R210): with L > 0 last accepted, it passes when
`DB_MAX_TICK - L > DB_TH`, and the stage's reference becomes 0; else only the response changes. -/
def Obligations.WatchdogUnderDebounce : Prop :=
  ∀ s : State, s.cfg.Sized → s.cfg.dbEn = true → 0 < s.db.lastAcceptedTick.toNat →
    exec (.either 0) s =
      if s.cfg.dbTh.toNat < dbMaxTickValue s.cfg.dbMaxTick - s.db.lastAcceptedTick.toNat then
        .next { s with db := ⟨0⟩, rsp := ⟨true, true, false, 0⟩ }
      else .next { s with rsp := ⟨false, false, false, 0⟩ }

/-- Debounce against bit timing (R208, marked derived): events that all come within `DB_TH` of the last accepted one
leave the decoder and the stage as they were. -/
def Obligations.DebounceHoldsOffCloseEvents : Prop :=
  ∀ (is : List Instr) (s : State), s.cfg.dbEn = true →
    (∀ i ∈ is, ∃ tick, isEventAt i tick ∧ dbElapsed s.cfg s.db.lastAcceptedTick tick ≤ s.cfg.dbTh.toNat) →
    ∃ t : State, execAll is s = .next t ∧ t.fd = s.fd ∧ t.db = s.db

/-- R122: what FALL does once DB_STAGE has passed it, and that it does nothing else. -/
def Obligations.FallRule : Prop :=
  ∀ (tick : Tick) (s : State), s.cfg.Sized → dbPasses s.cfg s.db tick = true →
    decode (.cmd (0b001#3 ++ tick)) = .fall tick ∧
    let diff := (tick.toNat + 2 ^ 32 - s.fd.lastHighTick.toNat) % 2 ^ 32
    exec (.fall tick) s = .next { s with
      fd := if s.cfg.fallTh.toNat < diff then
          { bitIndex := BitVec.ofInt 8 (-2), checksumAccum := 0, temperatureAccum := 0, humidityAccum := 0,
            lastHighTick := tick, error := .noError }
        else { s.fd with lastHighTick := tick }
      db := dbAccept s.cfg s.db tick
      rsp := ⟨true, false, false, 0⟩ }

/-- R123: what RISE does once DB_STAGE has passed it, position by position, and that it does nothing else. -/
def Obligations.RiseRule : Prop :=
  ∀ (tick : Tick) (s : State), s.cfg.Sized → dbPasses s.cfg s.db tick = true →
    decode (.cmd (0b000#3 ++ tick)) = .rise tick ∧
    let diff := (tick.toNat + 2 ^ 32 - s.fd.lastHighTick.toNat) % 2 ^ 32
    let bv := if s.cfg.bit1Th.toNat ≤ diff then 1 else 0
    let chk := if s.cfg.longTh.toNat ≤ diff then s.cfg.chkSentinel.toNat else s.fd.checksumAccum.toNat
    let b := s.fd.bitIndex.toInt
    let hum := s.fd.humidityAccum.toNat
    let temp := s.fd.temperatureAccum.toNat
    ∃ f : FdState,
      exec (.rise tick) s = .next { s with
        fd := f, db := dbAccept s.cfg s.db tick, rsp := ⟨true, decide (b = 39), false, 0⟩ } ∧
      f.lastHighTick = s.fd.lastHighTick ∧
      f.bitIndex.toInt = (if 40 ≤ b then 40 else b + 1) ∧
      f.humidityAccum.toNat = (if 0 ≤ b ∧ b ≤ 7 then (2 * hum + bv) % 2 ^ 16 else hum) ∧
      f.temperatureAccum.toNat = (if 16 ≤ b ∧ b ≤ 23 then (2 * temp + bv) % 2 ^ 16 else temp) ∧
      f.checksumAccum.toNat = (if 32 ≤ b ∧ b ≤ 39 then (2 * chk + bv) % 2 ^ 17 else chk) ∧
      f.error =
        (if b = 39 then
          if (hum + temp) % 256 = f.checksumAccum.toNat then s.fd.error else .checksumMismatch
        else if (0 ≤ b ∧ b ≤ 7) ∨ (16 ≤ b ∧ b ≤ 23) then .noError
        else s.fd.error)

/-- R124: EITHER reads and writes no field of the frame decoder, and asks the host to disable its watchdog. -/
def Obligations.EitherRule : Prop :=
  ∀ (tick : Tick) (s : State), dbPasses s.cfg s.db tick = true →
    decode (.cmd (0b010#3 ++ tick)) = .either tick ∧
    exec (.either tick) s = .next { s with db := dbAccept s.cfg s.db tick, rsp := ⟨true, true, false, 0⟩ }

/-- R126 with the layout of R76 and the codes of R77: READ changes no field, and its frame word holds the
classification, the temperature and the humidity. -/
def Obligations.ReadRule : Prop :=
  ∀ (tick : Tick) (s : State), s.cfg.Sized → decode (.cmd (0b100#3 ++ tick)) = .read ∧ ∃ frame : FrameWord,
    exec .read s = .next { s with rsp := ⟨false, false, true, frame⟩ } ∧
    frame.extractLsb' 32 2 =
      (if s.fd.error = .checksumMismatch then 0b10
       else if s.fd.bitIndex.toInt < 40 then 0b01
       else match s.fd.error with
         | .noError => 0b00
         | .incompleteFrame => 0b01
         | .checksumMismatch => 0b10) ∧
    frame.extractLsb' 16 16 = s.fd.temperatureAccum ∧
    frame.extractLsb' 0 16 = s.fd.humidityAccum

/-- READ exposes only the classification, temperature and humidity (R31): states that agree on the stored error, on
whether 40 bits have come, and on the two accumulators give the same response, whatever else they hold. -/
def Obligations.ReadHidesTheRest : Prop :=
  ∀ s t : State, s.cfg.Sized → t.cfg.Sized → s.fd.error = t.fd.error → (s.fd.bitIndex.toInt < 40 ↔ t.fd.bitIndex.toInt < 40) →
    s.fd.temperatureAccum = t.fd.temperatureAccum → s.fd.humidityAccum = t.fd.humidityAccum →
    ∃ r : Response, exec .read s = .next { s with rsp := r } ∧ exec .read t = .next { t with rsp := r }

/-- R200 and R202: RESET writes every field of R20 and no parameter, and its response is all 0. -/
def Obligations.ResetRule : Prop :=
  ∀ (tick : Tick) (s : State), s.cfg.Sized → decode (.cmd (0b101#3 ++ tick)) = .reset ∧
    exec .reset s = .next { s with
      fd := { bitIndex := BitVec.ofInt 8 (-2), checksumAccum := 0, temperatureAccum := 0, humidityAccum := 0,
              lastHighTick := 0, error := .noError }
      db := { lastAcceptedTick := 0 }
      rsp := ⟨false, false, false, 0⟩ } ∧
    ∀ c : Config, (State.powerOn c).cfg = c

/-- R201: power-on leaves the block in the state RESET writes, and so does making a new instance, whatever its
parameters. That nothing is presented and nothing driven at power-on is the model's choice (log entries 2 and 3) and is
not stated here. -/
def Obligations.PowerOnIsReset : Prop :=
  ∀ (c : Config) (s : State), s.cfg = c → ∃ t, exec .reset s = .next t ∧ t.fd = (State.powerOn c).fd ∧
    t.db = (State.powerOn c).db ∧ t.cfg = (State.powerOn c).cfg

/-- What reset leaves: every field at the value of R20's table, the parameters at the values of R5 (all fourteen rows)
and legal (R30), and a READ straight after it gives IncompleteFrame, 0, 0 (R203, marked derived). -/
def Obligations.ResetLeavesTheTablesValues : Prop :=
  (State.reset.fd.bitIndex.toInt = -2 ∧ State.reset.fd.checksumAccum = 0 ∧ State.reset.fd.temperatureAccum = 0 ∧
    State.reset.fd.humidityAccum = 0 ∧ State.reset.fd.lastHighTick = 0 ∧ State.reset.fd.error = .noError ∧
    State.reset.db.lastAcceptedTick = 0) ∧
  State.reset.cfg = ⟨250000, 50, 200, 256, false, 100000, .pow32, 32, 4294967296, 40, -2, 17, 16, 8⟩ ∧
  State.reset.cfg.Sized ∧ State.reset.cfg.Legal ∧
  ∃ t, exec .read State.reset = .next t ∧ t.rsp.frame = 0x100000000#34

/-- R78: a reserved command is refused, with no step: by its meaning, and by the step that finds it presented. -/
def Obligations.ReservedIsRefused : Prop :=
  ∀ s : State,
    exec .reserved3 s = .refused .reservedOp ∧ exec .reserved6 s = .refused .reservedOp ∧
    exec .reserved7 s = .refused .reservedOp ∧
    ∀ (w : CmdWord) (rest : List PortInput),
      (opField w = 0b011#3 ∨ opField w = 0b110#3 ∨ opField w = 0b111#3) →
      step { s with stream := .cmd w :: rest } = .refused .reservedOp

/-- Nothing but a reserved command stops the block (R170, R172, R173): a step gives a next state unless the input it
takes has a reserved operation code; and a host that keeps to operations (R190 (b)) is never stopped. -/
def Obligations.OnlyReservedStops : Prop :=
  (∀ s : State, (∃ t, step s = .next t) ∨
    (step s = .refused .reservedOp ∧ ∃ (w : CmdWord) (rest : List PortInput), s.stream = .cmd w :: rest ∧
      (opField w = 0b011#3 ∨ opField w = 0b110#3 ∨ opField w = 0b111#3))) ∧
  (∀ s : State, s.hostKeepsToOperations = true → ∃ t, step s = .next t ∧ t.hostKeepsToOperations = true)

/-- R173: a run has no fault-like outcome but the refusal of a reserved command, and a run that meets one is refused
for good: no later operation clears the mark. -/
def Obligations.RefusalIsForGood : Prop :=
  (∀ (is : List Instr) (s : State), (∃ t, execAll is s = .next t) ∨ execAll is s = .refused .reservedOp) ∧
  ∀ (before after : List Instr) (i : Instr) (s t : State), execAll before s = .next t → i.wellFormed = false →
    execAll (before ++ i :: after) s = .refused .reservedOp

/-- The invariant holds at reset, and at power-on with every legal setting of the control registers of
a block of the sizes of R5. -/
def Obligations.ResetMeetsInv : Prop :=
  State.Inv State.reset ∧ ∀ c : Config, c.Sized → c.Legal → State.Inv (State.powerOn c)

/-- Every step keeps the invariant (R28, R33 to R36, position by position). -/
def Obligations.StepKeepsInv : Prop :=
  ∀ s t : State, State.Inv s → step s = .next t → State.Inv t

/-- The bounds of R33 to R36 (marked derived) and R28, after any operations on a block at power-on. -/
def Obligations.ReachableBounds : Prop :=
  ∀ (c : Config) (is : List Instr) (t : State), c.Sized → c.Legal → execAll is (State.powerOn c) = .next t →
    (-2 ≤ t.fd.bitIndex.toInt ∧ t.fd.bitIndex.toInt ≤ 40) ∧
    t.fd.humidityAccum.toNat ≤ 255 ∧ t.fd.temperatureAccum.toNat ≤ 255 ∧
    t.fd.checksumAccum.toNat ≤ c.chkSentinel.toNat * 2 ^ 8 + 255 ∧
    (t.fd.error = .checksumMismatch → t.fd.bitIndex.toInt = 40) ∧ t.fd.error ≠ .incompleteFrame

/-- A long pulse while `bit_index` <= 39 makes the frame's comparison fail, whatever the data bits are (R127, marked
derived): once 40 bits are in, and until the next frame begins, the stored error is ChecksumMismatch. -/
def Obligations.LongPulseForcesMismatch : Prop :=
  ∀ (s : State) (tick : Tick) (is : List Instr), State.Inv s → s.fd.bitIndex.toInt ≤ 39 →
    dbPasses s.cfg s.db tick = true → s.cfg.longTh ≤ tickDiff s.cfg s.fd.lastHighTick tick →
    withinFrame (.rise tick :: is) s = true →
    ∃ t : State, execAll (.rise tick :: is) s = .next t ∧
      (t.fd.bitIndex.toInt = 40 → t.fd.error = .checksumMismatch)

/-- A well-formed frame decodes (R129, marked derived; R52, R53, R125): a frame-start FALL, then 42 rising edges with
a falling edge of `diff <= FALL_TH` before each later one, none of the pulses long. The first two pulses carry no
frame bit; the other 40 are read as bits, MSB first, by the pulse width. The last asks for the watchdog to be disabled,
and READ then gives the humidity and temperature bytes, with NoError exactly when the checksum byte is the low 8 bits
of their sum. -/
def Obligations.FrameDecodes : Prop :=
  ∀ (s : State) (pulses : List (Tick × Tick)), s.cfg.Sized → s.cfg.dbEn = false → pulses.length = 42 →
    (∀ p, pulses.head? = some p → s.cfg.fallTh < tickDiff s.cfg s.fd.lastHighTick p.1) →
    List.IsChain (fun p q => tickDiff s.cfg p.1 q.1 ≤ s.cfg.fallTh) pulses →
    (∀ p ∈ pulses, tickDiff s.cfg p.1 p.2 < s.cfg.longTh) →
    let bits := (pulses.map fun p => decide (s.cfg.bit1Th ≤ tickDiff s.cfg p.1 p.2)).drop 2
    let humidity := msbFirst (bits.take 8)
    let temperature := msbFirst ((bits.drop 16).take 8)
    let checksum := msbFirst ((bits.drop 32).take 8)
    ∃ t : State, execAll (pulses.flatMap pulse) s = .next t ∧
      t.fd.bitIndex.toInt = 40 ∧ t.rsp.wdDisable = true ∧
      exec .read t = .next { t with rsp := ⟨false, false, true,
        frameWord (if checksum = (humidity + temperature) % 256 then .noError else .checksumMismatch)
          (BitVec.ofNat 16 temperature) (BitVec.ofNat 16 humidity)⟩ }

/-- Read cycles too close together (R207, marked derived): with 40 bits in and no new frame begun, no operation
changes what READ gives. -/
def Obligations.CompletedFrameStays : Prop :=
  ∀ (s : State) (is : List Instr), s.cfg.Sized → s.fd.bitIndex.toInt = 40 → withinFrame is s = true →
    ∃ t : State, execAll is s = .next t ∧ t.fd.bitIndex.toInt = 40 ∧
      t.fd.humidityAccum = s.fd.humidityAccum ∧ t.fd.temperatureAccum = s.fd.temperatureAccum ∧
      t.fd.error = s.fd.error ∧ Response.ofRead t.cfg t.fd = Response.ofRead s.cfg s.fd

/-- Which operations write which field (the last column of R20's table, R21, R27, R29, R30, R202), over all
operations; no operation writes a parameter. (`tickOf` is the tick at the width `TICK_BITS`: the tick itself with the
sizes of R5.) -/
def Obligations.FieldWriters : Prop :=
  ∀ (i : Instr) (s t : State), exec i s = .next t →
    (t.fd.lastHighTick ≠ s.fd.lastHighTick → i = .reset ∨ ∃ tick, i = .fall tick) ∧
    (t.fd.bitIndex ≠ s.fd.bitIndex ∨ t.fd.checksumAccum ≠ s.fd.checksumAccum ∨
      t.fd.temperatureAccum ≠ s.fd.temperatureAccum ∨ t.fd.humidityAccum ≠ s.fd.humidityAccum ∨
      t.fd.error ≠ s.fd.error → i = .reset ∨ (∃ tick, i = .fall tick) ∨ ∃ tick, i = .rise tick) ∧
    (t.db ≠ s.db →
      i = .reset ∨ (s.cfg.dbEn = true ∧ ∃ tick, isEventAt i tick ∧ t.db.lastAcceptedTick = tickOf s.cfg tick)) ∧
    t.cfg = s.cfg ∧ t.stream = s.stream

/-- Idempotence (R57, marked derived): READ, RESET and TDIFF repeated give the same state and response; so do FALL and
EITHER repeated with the same tick while debounce is off; with debounce on any event repeated with the same tick is
filtered; RISE below position 40 is not idempotent. -/
def Obligations.RepeatedOperations : Prop :=
  (∀ s t : State, exec .read s = .next t → exec .read t = .next t) ∧
  (∀ s t : State, exec .reset s = .next t → exec .reset t = .next t) ∧
  (∀ (e l : Tick) (s t : State), exec (.tdiff e l) s = .next t → exec (.tdiff e l) t = .next t) ∧
  (∀ (tick : Tick) (s t : State), s.cfg.dbEn = false → exec (.fall tick) s = .next t → exec (.fall tick) t = .next t) ∧
  (∀ (tick : Tick) (s t : State), s.cfg.dbEn = false → exec (.either tick) s = .next t →
    t.fd = s.fd ∧ t.db = s.db ∧ exec (.either tick) t = .next t) ∧
  (∀ (i : Instr) (tick : Tick) (s t : State), isEventAt i tick → s.cfg.dbEn = true → exec i s = .next t →
    exec i t = .next { t with rsp := ⟨false, false, false, 0⟩ }) ∧
  (∀ (tick : Tick) (s t : State), s.cfg.Sized → dbPasses s.cfg s.db tick = true → s.fd.bitIndex.toInt < 40 →
    exec (.rise tick) s = .next t → t.fd.bitIndex ≠ s.fd.bitIndex)

/-- Only differences of ticks count (R100, R103, R121, R206): with `DB_MAX_TICK` = 2^32, moving every stored tick and
every tick operand on by `k` modulo 2^32 changes nothing else, for every operation but RESET, which stores tick 0. -/
def Obligations.OnlyTickDifferencesCount : Prop :=
  ∀ (k : Tick) (i : Instr) (s : State), s.cfg.Sized → s.cfg.dbMaxTick = .pow32 → i ≠ .reset →
    exec (shiftInstr k i) (shiftState k s) = mapNext (shiftState k) (exec i s)

/-- R75: the layout of the response word, and which operation drives which field of it. -/
def Obligations.ResponseFields : Prop :=
  (∀ r : Response, (rspWord r).getLsbD 36 = r.dbPass ∧ (rspWord r).getLsbD 35 = r.wdDisable ∧
    (rspWord r).getLsbD 34 = r.frameValid ∧ (rspWord r).extractLsb' 0 34 = r.frame) ∧
  (∀ (i : Instr) (tick : Tick) (s : State), s.cfg.Sized → isEventAt i tick → ∃ t, exec i s = .next t ∧
    t.rsp.dbPass = dbPasses s.cfg s.db tick ∧ t.rsp.frameValid = false ∧ t.rsp.frame = 0 ∧
    (t.rsp.wdDisable = true ↔ dbPasses s.cfg s.db tick = true ∧
      (i = .either tick ∨ (i = .rise tick ∧ s.fd.bitIndex.toInt = 39)))) ∧
  (∀ s : State, ∃ t, exec .read s = .next t ∧ t.rsp.dbPass = false ∧ t.rsp.wdDisable = false ∧
    t.rsp.frameValid = true ∧
    t.rsp.frame = frameWord (classify s.cfg s.fd) s.fd.temperatureAccum s.fd.humidityAccum) ∧
  (∀ s : State, ∃ t, exec .reset s = .next t ∧ rspWord t.rsp = 0)

/-- The block never drives error code 0b11 (R80, marked derived): a response whose error field is not 0b11 is followed
by one whose error field is not. -/
def Obligations.ReservedErrorCodeNeverDriven : Prop :=
  State.reset.rsp.frame.extractLsb' 32 2 ≠ 0b11 ∧
  ∀ s t : State, s.rsp.frame.extractLsb' 32 2 ≠ 0b11 → step s = .next t → t.rsp.frame.extractLsb' 32 2 ≠ 0b11

/-- The checksum comparison (R125, whose second clause is marked derived there): the low 8 bits of the sum against
the whole accumulator, so one of 256 or more fails; and ChecksumMismatch is recorded only by a RISE at position 39. -/
def Obligations.ChecksumComparison : Prop :=
  (∀ f : FdState, chkOk f = true ↔
    (f.humidityAccum.toNat + f.temperatureAccum.toNat) % 256 = f.checksumAccum.toNat) ∧
  (∀ f : FdState, 256 ≤ f.checksumAccum.toNat → chkOk f = false) ∧
  (∀ (i : Instr) (s t : State), s.cfg.Sized → exec i s = .next t → s.fd.error ≠ .checksumMismatch →
    t.fd.error = .checksumMismatch → s.fd.bitIndex.toInt = 39 ∧ ∃ tick, i = .rise tick)

/-- The phases of R38 and the groups of R53: a RISE that DB_STAGE passes shifts its bit into the accumulator of its
phase and leaves the other accumulators, but for the long-pulse force on the checksum accumulator, which comes first
(R123); once the frame is complete `bit_index` stays at 40. A RISE that is filtered leaves them all. -/
def Obligations.PhaseDecidesTheWrite : Prop :=
  ∀ (tick : Tick) (s : State), s.cfg.Sized →
    let bit := if s.cfg.bit1Th ≤ tickDiff s.cfg s.fd.lastHighTick tick then 1 else 0
    let checksum :=
      if s.cfg.longTh ≤ tickDiff s.cfg s.fd.lastHighTick tick then s.cfg.chkSentinel else s.fd.checksumAccum
    let phase := phaseOf s.cfg s.fd.bitIndex
    ∃ t : State, exec (.rise tick) s = .next t ∧
      (dbPasses s.cfg s.db tick = false → t.fd = s.fd) ∧
      (dbPasses s.cfg s.db tick = true →
        t.fd.humidityAccum.toNat =
          (if phase = .receivingHumidity then (2 * s.fd.humidityAccum.toNat + bit) % 2 ^ 16
           else s.fd.humidityAccum.toNat) ∧
        t.fd.temperatureAccum.toNat =
          (if phase = .receivingTemperature then (2 * s.fd.temperatureAccum.toNat + bit) % 2 ^ 16
           else s.fd.temperatureAccum.toNat) ∧
        t.fd.checksumAccum.toNat =
          (if phase = .receivingChecksum then (2 * checksum.toNat + bit) % 2 ^ 17 else checksum.toNat) ∧
        (phase = .complete → t.fd.bitIndex = 40 ∧ phaseOf t.cfg t.fd.bitIndex = .complete))

/-- The pseudo-instructions of R83 expand to the command words the spec writes out for them (program A, rows 0 to 6
and 9 to 10, and program E1). -/
def Obligations.PseudoInstructionsExpand : Prop :=
  pseudoWdto.map encode = [.cmd 0x200000000#35] ∧
  (pseudoStart 1000000).map encode =
    [.cmd 0x0000F4240#35, .cmd 0x1000F8890#35, .cmd 0x0000F88AE#35, .cmd 0x1000F88FE#35, .cmd 0x0000F894E#35] ∧
  (pseudoBit0 1018240).map encode = [.cmd 0x1000F8980#35, .cmd 0x0000F899B#35] ∧
  (pseudoBit1 1018394).map encode = [.cmd 0x1000F8A1A#35, .cmd 0x0000F8A60#35] ∧
  (pseudoLong 1018394).map encode = [.cmd 0x1000F8A1A#35, .cmd 0x0000F8B00#35]
end

