-- ==== Sys2Proof/Laws/Decode.lean ====
section
/-! SUPPORT. The decoder row by row, and by which operation code each row is chosen. -/

namespace Sys2Proof

@[simp] theorem tickField_append (op : BitVec 3) (t : Tick) : tickField (op ++ t) = t := by
  apply BitVec.eq_of_getLsbD_eq
  intro i hi
  have h := BitVec.getLsbD_append (x := op) (y := t) (i := i)
  simp only [hi] at h
  simp only [tickField, BitVec.getLsbD_extractLsb', hi, decide_true, Bool.true_and, Nat.zero_add]
  exact h

@[simp] theorem opField_append (op : BitVec 3) (t : Tick) : opField (op ++ t) = op := by
  apply BitVec.eq_of_getLsbD_eq
  intro i hi
  have h := BitVec.getLsbD_append (x := op) (y := t) (i := 32 + i)
  simp only [show ¬ 32 + i < 32 by omega, Nat.add_sub_cancel_left] at h
  simp only [opField, BitVec.getLsbD_extractLsb', hi, decide_true, Bool.true_and]
  exact h

/-- A command word is its two fields put together. -/
theorem opField_append_tickField (w : CmdWord) : opField w ++ tickField w = w := by
  apply BitVec.eq_of_getLsbD_eq
  intro i hi
  simp only [opField, tickField, BitVec.getLsbD_append, BitVec.getLsbD_extractLsb']
  by_cases h : i < 32
  · simp [h]
  · simp [h, show i - 32 < 3 by omega, show 32 + (i - 32) = i by omega]

/-- The operation codes are these eight. -/
theorem opField_cases (w : CmdWord) :
    opField w = 0b000#3 ∨ opField w = 0b001#3 ∨ opField w = 0b010#3 ∨ opField w = 0b011#3 ∨
    opField w = 0b100#3 ∨ opField w = 0b101#3 ∨ opField w = 0b110#3 ∨ opField w = 0b111#3 := by
  generalize opField w = op
  revert op
  decide

theorem decodeCmd_rise {w : CmdWord} (h : opField w = 0b000#3) : decodeCmd w = .rise (tickField w) := by
  simp [decodeCmd, h]
theorem decodeCmd_fall {w : CmdWord} (h : opField w = 0b001#3) : decodeCmd w = .fall (tickField w) := by
  simp [decodeCmd, h]
theorem decodeCmd_either {w : CmdWord} (h : opField w = 0b010#3) : decodeCmd w = .either (tickField w) := by
  simp [decodeCmd, h]
theorem decodeCmd_reserved3 {w : CmdWord} (h : opField w = 0b011#3) : decodeCmd w = .reserved3 := by
  simp [decodeCmd, h]
theorem decodeCmd_read {w : CmdWord} (h : opField w = 0b100#3) : decodeCmd w = .read := by
  simp [decodeCmd, h]
theorem decodeCmd_reset {w : CmdWord} (h : opField w = 0b101#3) : decodeCmd w = .reset := by
  simp [decodeCmd, h]
theorem decodeCmd_reserved6 {w : CmdWord} (h : opField w = 0b110#3) : decodeCmd w = .reserved6 := by
  simp [decodeCmd, h]
theorem decodeCmd_reserved7 {w : CmdWord} (h : opField w = 0b111#3) : decodeCmd w = .reserved7 := by
  simp [decodeCmd, h]

end Sys2Proof
end

