-- ==== Sys2Proof/Laws/State.lean ====
section
/-! SUPPORT. One lemma per field for every named update of the state, so that no proof unfolds a record update. -/

namespace Sys2Proof.Machine

@[simp] theorem startFrame_bitIndex (c : Config) (f : FdState) : (startFrame c f).bitIndex = c.preframe := rfl
@[simp] theorem startFrame_checksumAccum (c : Config) (f : FdState) : (startFrame c f).checksumAccum = 0 := rfl
@[simp] theorem startFrame_temperatureAccum (c : Config) (f : FdState) : (startFrame c f).temperatureAccum = 0 := rfl
@[simp] theorem startFrame_humidityAccum (c : Config) (f : FdState) : (startFrame c f).humidityAccum = 0 := rfl
@[simp] theorem startFrame_lastHighTick (c : Config) (f : FdState) : (startFrame c f).lastHighTick = f.lastHighTick := rfl
@[simp] theorem startFrame_error (c : Config) (f : FdState) : (startFrame c f).error = .noError := rfl

@[simp] theorem initial_bitIndex (c : Config) : (FdState.initial c).bitIndex = c.preframe := rfl
@[simp] theorem initial_checksumAccum (c : Config) : (FdState.initial c).checksumAccum = 0 := rfl
@[simp] theorem initial_temperatureAccum (c : Config) : (FdState.initial c).temperatureAccum = 0 := rfl
@[simp] theorem initial_humidityAccum (c : Config) : (FdState.initial c).humidityAccum = 0 := rfl
@[simp] theorem initial_lastHighTick (c : Config) : (FdState.initial c).lastHighTick = 0 := rfl
@[simp] theorem initial_error (c : Config) : (FdState.initial c).error = .noError := rfl
@[simp] theorem initial_lastAcceptedTick : DbState.initial.lastAcceptedTick = 0 := rfl

@[simp] theorem powerOn_fd (c : Config) : (State.powerOn c).fd = FdState.initial c := rfl
@[simp] theorem powerOn_db (c : Config) : (State.powerOn c).db = DbState.initial := rfl
@[simp] theorem powerOn_cfg (c : Config) : (State.powerOn c).cfg = c := rfl
@[simp] theorem powerOn_stream (c : Config) : (State.powerOn c).stream = [] := rfl
@[simp] theorem powerOn_rsp (c : Config) : (State.powerOn c).rsp = Response.undriven := rfl
@[simp] theorem powerOn_tdOut (c : Config) : (State.powerOn c).tdOut = 0 := rfl

@[simp] theorem passed_dbPass (w : Bool) : (Response.passed w).dbPass = true := rfl
@[simp] theorem passed_wdDisable (w : Bool) : (Response.passed w).wdDisable = w := rfl
@[simp] theorem passed_frameValid (w : Bool) : (Response.passed w).frameValid = false := rfl
@[simp] theorem passed_frame (w : Bool) : (Response.passed w).frame = 0 := rfl
@[simp] theorem undriven_dbPass : Response.undriven.dbPass = false := rfl
@[simp] theorem undriven_wdDisable : Response.undriven.wdDisable = false := rfl
@[simp] theorem undriven_frameValid : Response.undriven.frameValid = false := rfl
@[simp] theorem undriven_frame : Response.undriven.frame = 0 := rfl

@[simp] theorem forceChecksum_bitIndex (c : Config) (t : Tick) (f : FdState) :
    (forceChecksum c t f).bitIndex = f.bitIndex := by unfold forceChecksum; split <;> rfl
@[simp] theorem forceChecksum_temperatureAccum (c : Config) (t : Tick) (f : FdState) :
    (forceChecksum c t f).temperatureAccum = f.temperatureAccum := by unfold forceChecksum; split <;> rfl
@[simp] theorem forceChecksum_humidityAccum (c : Config) (t : Tick) (f : FdState) :
    (forceChecksum c t f).humidityAccum = f.humidityAccum := by unfold forceChecksum; split <;> rfl
@[simp] theorem forceChecksum_lastHighTick (c : Config) (t : Tick) (f : FdState) :
    (forceChecksum c t f).lastHighTick = f.lastHighTick := by unfold forceChecksum; split <;> rfl
@[simp] theorem forceChecksum_error (c : Config) (t : Tick) (f : FdState) :
    (forceChecksum c t f).error = f.error := by unfold forceChecksum; split <;> rfl
theorem forceChecksum_checksumAccum (c : Config) (t : Tick) (f : FdState) :
    (forceChecksum c t f).checksumAccum =
      if isLongPulse c f t then keepBits c.chkBits c.chkSentinel else f.checksumAccum := by
  unfold forceChecksum; split <;> rfl

@[simp] theorem judgeChecksum_bitIndex (f : FdState) : (judgeChecksum f).bitIndex = f.bitIndex := by
  unfold judgeChecksum; split <;> rfl
@[simp] theorem judgeChecksum_checksumAccum (f : FdState) :
    (judgeChecksum f).checksumAccum = f.checksumAccum := by unfold judgeChecksum; split <;> rfl
@[simp] theorem judgeChecksum_temperatureAccum (f : FdState) :
    (judgeChecksum f).temperatureAccum = f.temperatureAccum := by unfold judgeChecksum; split <;> rfl
@[simp] theorem judgeChecksum_humidityAccum (f : FdState) :
    (judgeChecksum f).humidityAccum = f.humidityAccum := by unfold judgeChecksum; split <;> rfl
@[simp] theorem judgeChecksum_lastHighTick (f : FdState) :
    (judgeChecksum f).lastHighTick = f.lastHighTick := by unfold judgeChecksum; split <;> rfl
theorem judgeChecksum_error (f : FdState) :
    (judgeChecksum f).error = if chkOk f then f.error else .checksumMismatch := by
  unfold judgeChecksum; split <;> rfl

@[simp] theorem shiftState_cfg (k : Tick) (s : State) : (shiftState k s).cfg = s.cfg := rfl
@[simp] theorem shiftState_stream (k : Tick) (s : State) : (shiftState k s).stream = s.stream := rfl
@[simp] theorem shiftState_rsp (k : Tick) (s : State) : (shiftState k s).rsp = s.rsp := rfl
@[simp] theorem shiftState_tdOut (k : Tick) (s : State) : (shiftState k s).tdOut = s.tdOut := rfl
@[simp] theorem shiftState_lastHighTick (k : Tick) (s : State) :
    (shiftState k s).fd.lastHighTick = s.fd.lastHighTick + k := rfl
@[simp] theorem shiftState_lastAcceptedTick (k : Tick) (s : State) :
    (shiftState k s).db.lastAcceptedTick = s.db.lastAcceptedTick + k := rfl

end Sys2Proof.Machine
end

