-- ==== Sys2Proof/Laws/Ops.lean ====
section
/-! SUPPORT. One lemma per shared operation that says what it can do, for the provers to cite. -/

namespace Sys2Proof.Machine

/-- The sizes of R5, one at a time. -/
theorem sized_tickBits {c : Config} (h : c.Sized) : c.tickBits = 32 := h.1
theorem sized_tickMod {c : Config} (h : c.Sized) : c.tickMod = 4294967296 := h.2.1
theorem sized_frameBits {c : Config} (h : c.Sized) : c.frameBits = 40 := h.2.2.1
theorem sized_preframe {c : Config} (h : c.Sized) : c.preframe = -2 := h.2.2.2.1
theorem sized_chkBits {c : Config} (h : c.Sized) : c.chkBits = 17 := h.2.2.2.2.1
theorem sized_accBits {c : Config} (h : c.Sized) : c.accBits = 16 := h.2.2.2.2.2.1
theorem sized_bidxBits {c : Config} (h : c.Sized) : c.bidxBits = 8 := h.2.2.2.2.2.2

/-- A register of the full width keeps every bit. -/
@[simp] theorem keepBits_self {w : Nat} (x : BitVec w) : keepBits w x = x := by simp [keepBits]

/-- Narrowing twice is narrowing once. -/
@[simp] theorem keepBits_keepBits {w : Nat} (n : Nat) (x : BitVec w) : keepBits n (keepBits n x) = keepBits n x := by
  ext i hi
  simp [keepBits, hi]

/-- With 32 bits to a tick, a tick is taken as it is. -/
theorem tickOf_sized {c : Config} (h : c.Sized) (t : Tick) : tickOf c t = t := by
  rw [tickOf, sized_tickBits h, keepBits_self]

/-- tick_diff with the sizes of R5: subtraction of 32-bit numbers with the borrow discarded. -/
theorem tickDiff_sized {c : Config} (h : c.Sized) (e l : Tick) : tickDiff c e l = l - e := by
  apply BitVec.eq_of_toNat_eq
  have := e.isLt
  have := l.isLt
  rw [tickDiff, tickOf_sized h, tickOf_sized h, sized_tickMod h, BitVec.toNat_ofInt, BitVec.toNat_sub]
  omega

/-- tick_diff as natural numbers. -/
theorem tickDiff_toNat {c : Config} (h : c.Sized) (e l : Tick) :
    (tickDiff c e l).toNat = (l.toNat + 2 ^ 32 - e.toNat) % 2 ^ 32 := by
  have := e.isLt
  rw [tickDiff_sized h, BitVec.toNat_sub]
  congr 1
  omega

/-- The two ends of an interval may be moved on together. -/
theorem tickDiff_add {c : Config} (h : c.Sized) (e l k : Tick) : tickDiff c (e + k) (l + k) = tickDiff c e l := by
  simp [tickDiff_sized h]

/-- No time passes from a tick to itself. -/
@[simp] theorem tickDiff_self (c : Config) (t : Tick) : tickDiff c t t = 0 := by simp [tickDiff]
@[simp] theorem tickDiff_tickOf (c : Config) (e l : Tick) : tickDiff c (tickOf c e) l = tickDiff c e l := by
  simp [tickDiff, tickOf]

/-- The debounce elapsed time with 32 bits to a tick. -/
theorem dbElapsed_sized {c : Config} (h : c.Sized) (l t : Tick) :
    dbElapsed c l t = if t < l then dbMaxTickValue c.dbMaxTick - l.toNat + t.toNat else t.toNat - l.toNat := by
  simp only [dbElapsed, tickOf_sized h, BitVec.lt_def]

/-- An event is filtered, or it passes and takes the decoder's new fields: nothing else can happen. -/
theorem runEvent_cases {tick : Tick} {fd' : FdState} {wd : Bool} {s t : State} (h : runEvent tick fd' wd s = .next t) :
    (dbPasses s.cfg s.db tick = true ∧
      t = { s with fd := fd', db := dbAccept s.cfg s.db tick, rsp := Response.passed wd }) ∨
    (dbPasses s.cfg s.db tick = false ∧ t = { s with rsp := Response.filtered }) := by
  unfold runEvent at h
  split at h
  · exact .inl ⟨‹_›, (Host.Outcome.next.inj h).symm⟩
  · exact .inr ⟨by simp_all, (Host.Outcome.next.inj h).symm⟩

/-- An event that passes. -/
theorem runEvent_pass {tick : Tick} {s : State} (fd' : FdState) (wd : Bool) (h : dbPasses s.cfg s.db tick = true) :
    runEvent tick fd' wd s =
      .next { s with fd := fd', db := dbAccept s.cfg s.db tick, rsp := Response.passed wd } := by
  simp [runEvent, h]

/-- An event that is filtered. -/
theorem runEvent_filtered {tick : Tick} {s : State} (fd' : FdState) (wd : Bool)
    (h : dbPasses s.cfg s.db tick = false) :
    runEvent tick fd' wd s = .next { s with rsp := Response.filtered } := by
  simp [runEvent, h]

/-- With debounce off every event passes and the stage keeps its field. -/
@[simp] theorem dbPasses_off {c : Config} (d : DbState) (tick : Tick) (h : c.dbEn = false) :
    dbPasses c d tick = true := by simp [dbPasses, h]
@[simp] theorem dbAccept_off {c : Config} (d : DbState) (tick : Tick) (h : c.dbEn = false) :
    dbAccept c d tick = d := by simp [dbAccept, h]
theorem dbAccept_on {c : Config} (d : DbState) (tick : Tick) (h : c.dbEn = true) :
    dbAccept c d tick = ⟨tickOf c tick⟩ := by simp [dbAccept, h]
theorem dbPasses_on {c : Config} (d : DbState) (tick : Tick) (h : c.dbEn = true) :
    dbPasses c d tick = true ↔ c.dbTh.toNat < dbElapsed c d.lastAcceptedTick tick := by
  simp [dbPasses, h]

/-- The shift as arithmetic: twice the value and the bit, at the accumulator's width (R128). -/
theorem shiftIn_toNat {w n : Nat} (hn : n = w + 1) (x : BitVec (w + 1)) (bv : Bool) :
    (shiftIn n x bv).toNat = (2 * x.toNat + bv.toNat) % 2 ^ (w + 1) := by
  subst hn
  have key : ∀ n : Nat, n % 2 ^ (w + 1) = n % (2 * 2 ^ w) := fun n => by rw [Nat.pow_succ']
  have hx := x.isLt
  cases bv
  · simp [shiftIn, BitVec.toNat_shiftLeft, Nat.shiftLeft_eq, Nat.mul_comm]
  · have hor : (x <<< 1) ||| (1#(w + 1)) = (x <<< 1) + 1#(w + 1) := by
      apply (BitVec.add_eq_or_of_and_eq_zero _ _ _).symm
      ext i hi
      simp
      omega
    have h1 : shiftIn (w + 1) x true = (x <<< 1) + 1#(w + 1) := by
      rw [← hor]; simp [shiftIn]
    rw [h1, BitVec.toNat_add, BitVec.toNat_shiftLeft, Nat.shiftLeft_eq]
    simp [Nat.mul_comm]

/-- The byte sum as arithmetic. -/
theorem byteSum_toNat (f : FdState) :
    (byteSum f).toNat = (f.humidityAccum.toNat + f.temperatureAccum.toNat) % 256 := by
  have h1 := f.humidityAccum.isLt
  have h2 := f.temperatureAccum.isLt
  have h3 : (0xFF : ChkAccum).toNat = 2 ^ 8 - 1 := rfl
  simp only [byteSum, BitVec.toNat_and, BitVec.toNat_add, BitVec.toNat_setWidth]
  rw [h3, Nat.and_two_pow_sub_one_eq_mod]
  omega

/-- The comparison as arithmetic (R125). -/
theorem chkOk_iff (f : FdState) :
    chkOk f = true ↔ (f.humidityAccum.toNat + f.temperatureAccum.toNat) % 256 = f.checksumAccum.toNat := by
  rw [chkOk, beq_iff_eq, ← BitVec.toNat_inj, byteSum_toNat]

/-- Below position 40 the bit index goes up by exactly 1. -/
theorem bitIndex_succ {b : BitIndex} (h : b.toInt < 40) : (b + 1).toInt = b.toInt + 1 := by
  have h1 : (1 : BitIndex).toInt = 1 := rfl
  have h2 := BitVec.le_toInt b
  rw [BitVec.toInt_add, h1, Int.bmod_def]
  omega

/-- With 8 bits to `bit_index`, a position is held as it is, modulo 2^8. -/
theorem indexOf_sized {c : Config} (h : c.Sized) (position : Int) : indexOf c position = BitVec.ofInt 8 position := by
  apply BitVec.eq_of_toInt_eq
  simp [indexOf, sized_bidxBits h]

/-- What the dispatch does to the fields other than the accumulators and `error`. -/
@[simp] theorem takeBit_bitIndex (c : Config) (bv : Bool) (f : FdState) :
    (takeBit c bv f).bitIndex = f.bitIndex := by unfold takeBit; split_ifs <;> simp
@[simp] theorem takeBit_lastHighTick (c : Config) (bv : Bool) (f : FdState) :
    (takeBit c bv f).lastHighTick = f.lastHighTick := by unfold takeBit; split_ifs <;> simp
@[simp] theorem dispatchBit_lastHighTick (c : Config) (bv : Bool) (f : FdState) :
    (dispatchBit c bv f).lastHighTick = f.lastHighTick := by unfold dispatchBit; split_ifs <;> simp

/-- What the dispatch does to each accumulator, and to `error`. -/
theorem takeBit_humidityAccum {c : Config} (h : c.Sized) (bv : Bool) (f : FdState) :
    (takeBit c bv f).humidityAccum =
      if 0 ≤ f.bitIndex.toInt ∧ f.bitIndex.toInt ≤ 7 then shiftIn 16 f.humidityAccum bv else f.humidityAccum := by
  unfold takeBit; rw [sized_accBits h, sized_frameBits h]; split_ifs <;> first | omega | simp
theorem takeBit_temperatureAccum {c : Config} (h : c.Sized) (bv : Bool) (f : FdState) :
    (takeBit c bv f).temperatureAccum =
      if 16 ≤ f.bitIndex.toInt ∧ f.bitIndex.toInt ≤ 23 then shiftIn 16 f.temperatureAccum bv
      else f.temperatureAccum := by
  unfold takeBit; rw [sized_accBits h, sized_frameBits h]; split_ifs <;> first | omega | simp
theorem takeBit_checksumAccum {c : Config} (h : c.Sized) (bv : Bool) (f : FdState) :
    (takeBit c bv f).checksumAccum =
      if 32 ≤ f.bitIndex.toInt ∧ f.bitIndex.toInt ≤ 39 then shiftIn 17 f.checksumAccum bv else f.checksumAccum := by
  unfold takeBit; rw [sized_chkBits h, sized_frameBits h]; split_ifs <;> first | omega | simp
theorem takeBit_error {c : Config} (h : c.Sized) (bv : Bool) (f : FdState) :
    (takeBit c bv f).error =
      if f.bitIndex.toInt = 39 then
        if chkOk { f with checksumAccum := shiftIn 17 f.checksumAccum bv } then f.error else .checksumMismatch
      else if (0 ≤ f.bitIndex.toInt ∧ f.bitIndex.toInt ≤ 7) ∨ (16 ≤ f.bitIndex.toInt ∧ f.bitIndex.toInt ≤ 23) then
        .noError
      else f.error := by
  unfold takeBit; rw [sized_chkBits h, sized_frameBits h]
  split_ifs <;> first | omega | simp_all [judgeChecksum_error]

/-- At position 40 or above, the clamp; below, the bit is taken and the index goes up. -/
theorem dispatchBit_complete {c : Config} (hc : c.Sized) {f : FdState} (bv : Bool) (h : 40 ≤ f.bitIndex.toInt) :
    dispatchBit c bv f = { f with bitIndex := 40 } := by
  rw [dispatchBit, sized_frameBits hc, if_pos (by simpa using h), indexOf_sized hc]
  rfl
theorem dispatchBit_inFrame {c : Config} (hc : c.Sized) {f : FdState} (bv : Bool) (h : f.bitIndex.toInt < 40) :
    dispatchBit c bv f = { takeBit c bv f with bitIndex := f.bitIndex + 1 } := by
  have hi : indexOf c (f.bitIndex.toInt + 1) = f.bitIndex + 1 := by
    rw [indexOf_sized hc]
    apply BitVec.eq_of_toInt_eq
    rw [BitVec.toInt_ofInt, BitVec.toInt_add]
    rfl
  rw [dispatchBit, sized_frameBits hc, if_neg (by omega), hi]

/-- The long-pulse force writes the whole sentinel. -/
theorem forceChecksum_sized {c : Config} (h : c.Sized) (t : Tick) (f : FdState) :
    (forceChecksum c t f).checksumAccum = if isLongPulse c f t then c.chkSentinel else f.checksumAccum := by
  rw [forceChecksum_checksumAccum, sized_chkBits h, keepBits_self]

/-- The classification with frames of 40 bits (R126). -/
theorem classify_sized {c : Config} (h : c.Sized) (f : FdState) :
    classify c f = if f.error = .checksumMismatch then .checksumMismatch
      else if f.bitIndex.toInt < 40 then .incompleteFrame else f.error := by
  rw [classify, sized_frameBits h]
  rfl

/-- No operation faults. -/
theorem exec_ne_fault (i : Instr) (s : State) (r : Fault) : exec i s ≠ .fault r := nomatch r

/-- A sequence of operations, one at a time. -/
@[simp] theorem execAll_nil (s : State) : execAll [] s = .next s := rfl
theorem execAll_cons_next {i : Instr} {s t : State} (is : List Instr) (h : exec i s = .next t) :
    execAll (i :: is) s = execAll is t := by simp [execAll, h]
theorem execAll_cons_refused {i : Instr} {s : State} {r : Refusal} (is : List Instr) (h : exec i s = .refused r) :
    execAll (i :: is) s = .refused r := by simp [execAll, h]

/-- Staying within the frame, one operation at a time. -/
theorem withinFrame_cons {i : Instr} {is : List Instr} {s : State} (h : withinFrame (i :: is) s = true) :
    beginsFrame i s = false ∧ ∃ t, exec i s = .next t ∧ withinFrame is t = true := by
  simp only [withinFrame, Bool.and_eq_true, Bool.not_eq_true'] at h
  refine ⟨h.1, ?_⟩
  have h2 := h.2
  split at h2
  · exact ⟨_, ‹_›, h2⟩
  · simp at h2
  · simp at h2

end Sys2Proof.Machine
end

