-- ==== Sys2Proof/Laws/PerInstr.lean ====
section
/-! SUPPORT. A statement about every row as syntax, one lemma per constructor. -/

/-- The canonical input of a row is on the port the row belongs to, with a reserved operation code exactly for the rows
that are not well formed (R71, R74, R78). -/
def Sys2Proof.Laws.EncodedOp.Statement (i : Sys2Proof.Instr) : Prop :=
  match Sys2Proof.encode i with
  | .cmd w => (Sys2Proof.opField w = 0b011#3 ∨ Sys2Proof.opField w = 0b110#3 ∨ Sys2Proof.opField w = 0b111#3) ↔
      i.wellFormed = false
  | .td _ => i.wellFormed = true

namespace Sys2Proof.Laws.EncodedOp

theorem rise (tick : Tick) : Statement (.rise tick) := by simp [Statement, encode, Instr.wellFormed]
theorem fall (tick : Tick) : Statement (.fall tick) := by simp [Statement, encode, Instr.wellFormed]
theorem either (tick : Tick) : Statement (.either tick) := by simp [Statement, encode, Instr.wellFormed]
theorem read : Statement .read := by simp only [Statement, encode, opField_append]; decide
theorem reset : Statement .reset := by simp only [Statement, encode, opField_append]; decide
theorem reserved3 : Statement .reserved3 := by simp only [Statement, encode, opField_append]; decide
theorem reserved6 : Statement .reserved6 := by simp only [Statement, encode, opField_append]; decide
theorem reserved7 : Statement .reserved7 := by simp only [Statement, encode, opField_append]; decide
theorem tdiff (earlier later : Tick) : Statement (.tdiff earlier later) := by
  simp [Statement, encode, Instr.wellFormed]

end Sys2Proof.Laws.EncodedOp
end

