-- ==== Sys2Proof/Tests/Slice0.lean ====
section
/-! SUPPORT. Tests on the vectors of spec/95_test_vectors.md (its numbers are named: TD, DB, FA, RS, EI, RD, X), the
smoke test of WellFormed, and a witness for every statement with a hypothesis. Expected results are the spec's. -/

namespace Sys2Proof.Tests

open Sys2Proof Sys2Proof.Machine

/-- A frame decoder at position `b`, with the accumulators and the reference tick given, and no error. -/
def fdAt (b : Int) (hum temp chk last : Nat) : FdState where
  bitIndex := BitVec.ofInt 8 b
  checksumAccum := BitVec.ofNat 17 chk
  temperatureAccum := BitVec.ofNat 16 temp
  humidityAccum := BitVec.ofNat 16 hum
  lastHighTick := BitVec.ofNat 32 last
  error := .noError

/-- The block with debounce off, its decoder as given. -/
def at_ (f : FdState) : State := { State.reset with fd := f }

/-- Debounce on, with the other parameters of R5. -/
def debouncing : Config := { Config.default with dbEn := true }

/-- The block with the given parameters and last accepted tick, its decoder as after reset. -/
def acceptedAt (c : Config) (last : Nat) : State := { State.powerOn c with db := ⟨BitVec.ofNat 32 last⟩ }

/-- The next state, if there is one. -/
def next? (o : Host.Outcome State Fault Refusal) : Option State :=
  match o with
  | .next s => some s
  | .fault _ => none
  | .refused _ => none

/-- The refusal, if there is one. -/
def refusal? (o : Host.Outcome State Fault Refusal) : Option Refusal :=
  match o with
  | .next _ => none
  | .fault _ => none
  | .refused r => some r

/-- What a row of the vector tables shows of a next state: position, humidity, temperature, checksum, error, and
whether the watchdog is to be disabled. -/
structure Row where
  position : Int
  humidity : Nat
  temperature : Nat
  checksum : Nat
  error : ErrorKind
  wdDisable : Bool
  deriving DecidableEq

/-- The row a next state shows. -/
def row (o : Host.Outcome State Fault Refusal) : Option Row :=
  (next? o).map fun t => ⟨t.fd.bitIndex.toInt, t.fd.humidityAccum.toNat, t.fd.temperatureAccum.toNat,
    t.fd.checksumAccum.toNat, t.fd.error, t.rsp.wdDisable⟩

/-- What a row of the debounce table shows: db_pass and last_accepted_tick. -/
def dbRow (o : Host.Outcome State Fault Refusal) : Option (Bool × Nat) :=
  (next? o).map fun t => (t.rsp.dbPass, t.db.lastAcceptedTick.toNat)

/-! ### WellFormed: an ill-formed term for each reserved code (R78), and the well-formed rows -/

theorem test_wellFormed_refuses_reserved3 : Instr.wellFormed .reserved3 = false := by decide
theorem test_wellFormed_refuses_reserved6 : Instr.wellFormed .reserved6 = false := by decide
theorem test_wellFormed_refuses_reserved7 : Instr.wellFormed .reserved7 = false := by decide
theorem test_wellFormed_operations :
    [Instr.rise 0, .fall 1, .either 2, .read, .reset, .tdiff 3 4].all Instr.wellFormed = true := by decide

/-! ### Decoding: words written out bit by bit from R70, R71 and R74, one for every constructor -/

theorem test_decode_rise : decode (.cmd 0b00000000000000011110100001001000000#35) = .rise 1000000 := by decide
theorem test_decode_fall : decode (.cmd 0b00100000000000011111000100010010000#35) = .fall 1018000 := by decide
theorem test_decode_either : decode (.cmd 0b01000000000000000000000000000000000#35) = .either 0 := by decide
theorem test_decode_reserved3 : decode (.cmd 0b01100000000000000000000000000000000#35) = .reserved3 := by decide
theorem test_decode_read : decode (.cmd 0b10011111111111111111111111111111111#35) = .read := by decide
theorem test_decode_reset : decode (.cmd 0b10111011110101011011011111011101111#35) = .reset := by decide
theorem test_decode_reserved6 : decode (.cmd 0b11000000000000000000000000000000000#35) = .reserved6 := by decide
theorem test_decode_reserved7 : decode (.cmd 0b11111111111111111111111111111111111#35) = .reserved7 := by decide
theorem test_decode_tdiff :
    decode (.td 0b1111111111111111111111111110100000000000000000000000000000001100#64) =
      .tdiff 4294967272 12 := by decide

/-- The words of R82's examples, and a word no port carries. -/
theorem test_decodeTableWord :
    decodeTableWord 40 0x0000F4240 = some (.rise 1000000) ∧ decodeTableWord 40 0x1000F8890 = some (.fall 1018000) ∧
    decodeTableWord 64 0 = some (.tdiff 0 0) ∧ decodeTableWord 8 5 = some (.tdiff 0 5) ∧
    decodeTableWord 40 0x800000000 = none ∧ portInput 72 0 = .error .noSuchLength := by decide

theorem test_asmLine :
    asmLine (.fall 1018000) = some "FALL 1018000" ∧ asmLine (.tdiff 4294967272 12) = some "TDIFF 4294967272, 12" ∧
    asmLine .reserved3 = none := by decide

/-- A word of the table runs as the first operation after reset. -/
theorem test_withFetchWord_runs :
    (next? (step (State.reset.withFetchWord 40 0x1000F8890))).map (·.fd.lastHighTick) = some 1018000 ∧
    (next? (step (State.reset.withFetchWord 64 0xFFFFFFE80000000C))).map (·.tdOut) = some 36 ∧
    refusal? (step (State.reset.withFetchWord 40 0x700000000)) = some .reservedOp := by decide

/-! ### TDIFF (vectors TD2, TD3) -/

theorem test_tdiff_source_example :
    (next? (exec (.tdiff 4294967272 12) State.reset)).map (·.tdOut) = some 36 := by decide
theorem test_tdiff_wraps : (next? (exec (.tdiff 5 3) State.reset)).map (·.tdOut) = some 4294967294 := by decide

/-! ### FALL (vectors FA1 to FA3) -/

/-- FA1: `diff` equal to `FALL_TH` is no frame start. -/
theorem test_fall_at_threshold :
    row (exec (.fall 251000) (at_ (fdAt 40 45 25 70 1000))) = some ⟨40, 45, 25, 70, .noError, false⟩ := by decide
/-- FA2: one tick more is. -/
theorem test_fall_frame_start :
    next? (exec (.fall 251001) (at_ (fdAt 40 45 25 70 1000))) =
      some { State.reset with
        fd := fdAt (-2) 0 0 0 251001, rsp := ⟨true, false, false, 0⟩ } := by decide

/-! ### RISE (vectors RS12 and RS14) -/

theorem test_rise_completes_frame :
    row (exec (.rise 1027) (at_ (fdAt 39 45 25 35 1000))) = some ⟨40, 45, 25, 70, .noError, true⟩ := by decide
theorem test_rise_long_pulse_at_39 :
    row (exec (.rise 1250) (at_ (fdAt 39 45 25 35 1000))) = some ⟨40, 45, 25, 513, .checksumMismatch, true⟩ := by
  decide

/-! ### EITHER (vectors EI1 and DB6) -/

theorem test_either_keeps_decoder :
    next? (exec (.either 0) (at_ (fdAt 20 45 1 0 1019875))) =
      some { at_ (fdAt 20 45 1 0 1019875) with rsp := ⟨true, true, false, 0⟩ } := by decide
theorem test_either_under_debounce :
    dbRow (exec (.either 0) (acceptedAt debouncing 500000)) = some (true, 0) := by decide

/-! ### READ (vectors RD2, RD5) and RESET (X1) -/

theorem test_read_incomplete :
    (next? (exec .read (at_ (fdAt 39 45 25 35 1000)))).map (·.rsp) =
      some ⟨false, false, true, 0x010019002D#34⟩ := by decide
theorem test_read_mismatch_first :
    (next? (exec .read (at_ { fdAt 10 45 0 0 0 with error := .checksumMismatch }))).map (·.rsp.frame) =
      some 0x020000002D#34 := by decide
theorem test_reset :
    next? (exec .reset (at_ (fdAt 40 45 25 70 1021673))) = some State.reset := by decide

/-! ### Reserved (X4 to X6) -/

theorem test_reserved3 : refusal? (step (State.reset.withFetchWord 40 0x300000000)) = some .reservedOp := by decide
theorem test_reserved6 : refusal? (step (State.reset.withFetchWord 40 0x600000000)) = some .reservedOp := by decide
theorem test_reserved7 : refusal? (step (State.reset.withFetchWord 40 0x7FFFFFFFF)) = some .reservedOp := by decide

/-! ### Witnesses: the hypotheses of each statement hold together somewhere -/

theorem witness_StepRunsDecoded :
    (State.reset.withFetchWord 40 0x400000000).stream = .cmd 0x400000000#35 :: [] ∧ State.reset.stream = [] ∧
    decodeTableWord 40 0x400000000 = some .read := by decide

/-- An interval across the wrap. -/
theorem witness_TdiffResult :
    State.reset.cfg.Sized ∧ (next? (exec (.tdiff 4294967295 0) State.reset)).map (·.tdOut) = some 1 := by decide

theorem witness_TdiffCommutesWithCommands :
    exec (decode (.cmd 0x400000000#35)) State.reset =
      .next { State.reset with rsp := Response.ofRead Config.default (FdState.initial Config.default) } := rfl

/-- Each clause: bypassed (DB8); passed, without and with a wrap (DB2, DB4); filtered (DB1, DB3, DB5, DB7, and DB4' under the
other wrap offset). -/
theorem witness_DebounceStage :
    debouncing.Sized ∧ Config.default.Sized ∧ isEventAt (.rise 100001) 100001 ∧ isEventAt (.fall 7) 7 ∧ isEventAt (.either 0) 0 ∧
    dbRow (exec (.rise 7) (acceptedAt Config.default 7)) = some (true, 7) ∧
    dbRow (exec (.rise 100001) (acceptedAt debouncing 0)) = some (true, 100001) ∧
    dbRow (exec (.rise 99705) (acceptedAt debouncing 4294967000)) = some (true, 99705) ∧
    dbRow (exec (.rise 100000) (acceptedAt debouncing 0)) = some (false, 0) ∧
    dbRow (exec (.fall 5099999) (acceptedAt debouncing 5000000)) = some (false, 5000000) ∧
    dbRow (exec (.rise 99704) (acceptedAt debouncing 4294967000)) = some (false, 4294967000) ∧
    dbRow (exec (.rise 7) (acceptedAt debouncing 7)) = some (false, 7) ∧
    dbRow (exec (.rise 99705) (acceptedAt { debouncing with dbMaxTick := .pow32LessOne } 4294967000)) =
      some (false, 4294967000) := by
  refine ⟨by decide, by decide, .inl rfl, .inr (.inl rfl), .inr (.inr rfl), ?_⟩
  decide

/-- DB4 and DB4': the wrap case under both wrap offsets. -/
theorem witness_ElapsedIsTickDiff :
    debouncing.Sized ∧ dbElapsed { debouncing with dbMaxTick := .pow32 } 4294967000 99705 = 100001 ∧
    dbElapsed { debouncing with dbMaxTick := .pow32LessOne } 4294967000 99705 = 100000 := by decide

theorem witness_DebounceCorners :
    debouncing.Sized ∧ { debouncing with dbTh := 4294967295 }.Sized ∧ debouncing.dbEn = true ∧ debouncing.dbMaxTick = .pow32 ∧ debouncing.dbTh ≠ 4294967295 ∧
    (99705 : Tick) < 4294967000 ∧
    { debouncing with dbTh := 4294967295 }.dbEn = true ∧ { debouncing with dbTh := 4294967295 }.dbTh = 4294967295 := by
  decide

/-- DB6 passes; a reference so close to the wrap that tick 0 is filtered. -/
theorem witness_WatchdogUnderDebounce :
    (acceptedAt debouncing 500000).cfg.Sized ∧ (acceptedAt debouncing 500000).cfg.dbEn = true ∧
    0 < (acceptedAt debouncing 500000).db.lastAcceptedTick.toNat ∧
    dbRow (exec (.either 0) (acceptedAt debouncing 4294967295)) = some (false, 4294967295) := by decide

/-- Program D: two edges of the frame after the accepted start pulse. -/
theorem witness_DebounceHoldsOffCloseEvents :
    (acceptedAt debouncing 1000000).cfg.dbEn = true ∧
    ∀ i ∈ [Instr.fall 1018000, .rise 1018030], ∃ tick, isEventAt i tick ∧
      dbElapsed debouncing 1000000 tick ≤ debouncing.dbTh.toNat := by
  refine ⟨rfl, ?_⟩
  intro i hi
  simp only [List.mem_cons, List.not_mem_nil, or_false] at hi
  rcases hi with rfl | rfl
  · exact ⟨1018000, .inr (.inl rfl), by decide⟩
  · exact ⟨1018030, .inl rfl, by decide⟩

/-- FA3 and FA4: across the wrap, and at the threshold after reset. -/
theorem witness_FallRule_within :
    State.reset.cfg.Sized ∧ dbPasses Config.default DbState.initial 100 = true ∧
    row (exec (.fall 100) (at_ (fdAt 40 45 25 70 4294967000))) = some ⟨40, 45, 25, 70, .noError, false⟩ ∧
    row (exec (.fall 250000) State.reset) = some ⟨-2, 0, 0, 0, .noError, false⟩ :=
  ⟨by decide, by decide, by decide, by decide⟩

/-- FA5's tick, in the middle of a frame. -/
theorem witness_FallRule_start :
    (at_ (fdAt 5 9 0 0 0)).cfg.Sized ∧ dbPasses Config.default DbState.initial 250001 = true ∧
    row (exec (.fall 250001) (at_ (fdAt 5 9 0 0 0))) = some ⟨-2, 0, 0, 0, .noError, false⟩ :=
  ⟨by decide, by decide, by decide⟩

/-- The outcomes of one rising edge 'tick' on several decoders. -/
def riseRows (tick : Tick) (fs : List FdState) : List (Option Row) :=
  fs.map fun f => row (exec (.rise tick) (at_ f))

/-- The thresholds on both sides (RS1 to RS4), and across the wrap (RS19). -/
theorem witness_RiseRule_thresholds :
    (at_ (fdAt 0 0 0 0 1000)).cfg.Sized ∧ dbPasses Config.default DbState.initial 1049 = true ∧
    riseRows 1049 [fdAt 0 0 0 0 1000] = [some ⟨1, 0, 0, 0, .noError, false⟩] ∧
    riseRows 1050 [fdAt 0 0 0 0 1000] = [some ⟨1, 1, 0, 0, .noError, false⟩] ∧
    riseRows 1199 [fdAt 0 0 0 0 1000] = [some ⟨1, 1, 0, 0, .noError, false⟩] ∧
    riseRows 1200 [fdAt 0 0 0 0 1000] = [some ⟨1, 1, 0, 256, .noError, false⟩] ∧
    riseRows 40 [fdAt 0 0 0 0 4294967290] = [some ⟨1, 0, 0, 0, .noError, false⟩] :=
  ⟨by decide, by decide, by decide, by decide, by decide, by decide, by decide⟩

/-- A 1 bit at both edges of every window (RS5, RS6, RS8 to RS10, RS13, RS15, RS18, and RS20 with its stored error). -/
theorem witness_RiseRule_ones :
    dbPasses Config.default DbState.initial 1070 = true ∧
    riseRows 1070 [fdAt (-1) 0 0 0 1000, fdAt 7 22 0 0 1000, fdAt 8 45 0 0 1000, fdAt 16 0 0 0 1000,
        fdAt 23 0 12 0 1000, fdAt 31 0 0 0 1000, fdAt 39 45 25 35 1000, fdAt 40 45 25 70 1000,
        { fdAt 0 0 0 0 1000 with error := .checksumMismatch }] =
      [some ⟨0, 0, 0, 0, .noError, false⟩, some ⟨8, 45, 0, 0, .noError, false⟩, some ⟨9, 45, 0, 0, .noError, false⟩,
       some ⟨17, 0, 1, 0, .noError, false⟩, some ⟨24, 0, 25, 0, .noError, false⟩,
       some ⟨32, 0, 0, 0, .noError, false⟩, some ⟨40, 45, 25, 71, .checksumMismatch, true⟩,
       some ⟨40, 45, 25, 70, .noError, false⟩, some ⟨1, 1, 0, 0, .noError, false⟩] := ⟨by decide, by decide⟩

/-- A 0 bit (RS7, RS11, RS17), and a long pulse on a complete frame (RS16). -/
theorem witness_RiseRule_zeros :
    dbPasses Config.default DbState.initial 1027 = true ∧
    riseRows 1027 [fdAt (-2) 0 0 0 1000, fdAt 15 0 0 0 1000, fdAt 32 0 0 0 1000] =
      [some ⟨-1, 0, 0, 0, .noError, false⟩, some ⟨16, 0, 0, 0, .noError, false⟩,
       some ⟨33, 0, 0, 0, .noError, false⟩] ∧
    riseRows 1250 [fdAt 40 45 25 70 1000] = [some ⟨40, 45, 25, 256, .noError, false⟩] :=
  ⟨by decide, by decide, by decide⟩

theorem witness_EitherRule : dbPasses Config.default DbState.initial 12345 = true := by decide

/-- RD1, RD3 and RD4: the classification's three outcomes. -/
theorem witness_ReadRule :
    State.reset.cfg.Sized ∧
    (next? (exec .read State.reset)).map (·.rsp.frame) = some 0x0100000000#34 ∧
    (next? (exec .read (at_ (fdAt 40 45 25 70 0)))).map (·.rsp.frame) = some 0x000019002D#34 ∧
    (next? (exec .read (at_ { fdAt 40 45 25 70 0 with error := .checksumMismatch }))).map (·.rsp.frame) =
      some 0x020019002D#34 := by decide

/-- Two states that differ in every field READ hides. -/
theorem witness_ReadHidesTheRest :
    (at_ (fdAt 3 5 7 0 0)).cfg.Sized ∧ (at_ (fdAt 20 5 7 256 99)).cfg.Sized ∧
    (fdAt 3 5 7 0 0).error = (fdAt 20 5 7 256 99).error ∧
    ((fdAt 3 5 7 0 0).bitIndex.toInt < 40 ↔ (fdAt 20 5 7 256 99).bitIndex.toInt < 40) ∧
    (fdAt 3 5 7 0 0).temperatureAccum = (fdAt 20 5 7 256 99).temperatureAccum ∧
    (fdAt 3 5 7 0 0).humidityAccum = (fdAt 20 5 7 256 99).humidityAccum ∧ fdAt 3 5 7 0 0 ≠ fdAt 20 5 7 256 99 := by
  decide

theorem witness_ResetRule :
    (acceptedAt debouncing 7).cfg.Sized ∧
    next? (exec .reset (acceptedAt debouncing 7)) = some (State.powerOn debouncing) := by decide

theorem witness_ReservedIsRefused :
    opField 0x300000000#35 = 0b011#3 ∧ opField 0x600000000#35 = 0b110#3 ∧ opField 0x7FFFFFFFF#35 = 0b111#3 := by decide

theorem witness_OnlyReservedStops :
    (State.reset.withFetchWord 40 0x1000F8890).hostKeepsToOperations = true ∧
    (State.reset.withFetchWord 40 0x300000000).hostKeepsToOperations = false := by decide

theorem witness_RefusalIsForGood :
    execAll [.read] State.reset = .next { State.reset with rsp := Response.ofRead Config.default (FdState.initial Config.default) } ∧
    Instr.wellFormed .reserved6 = false := ⟨rfl, rfl⟩

/-- A block in the middle of a frame, with debounce on. -/
theorem witness_PowerOnIsReset :
    (acceptedAt debouncing 7).cfg = debouncing ∧ (acceptedAt debouncing 7).db ≠ (State.powerOn debouncing).db := by
  decide

theorem witness_ResetMeetsInv :
    Config.Sized debouncing ∧ Config.Legal { debouncing with chkSentinel := 256 } ∧ Config.Legal { debouncing with chkSentinel := 511 } := by decide

/-- A state mid-frame that meets the invariant, and its step. -/
theorem witness_StepKeepsInv :
    State.Inv ((at_ (fdAt 33 45 25 1 1000)).withFetchWord 40 0x0000004E2) ∧
    row (step ((at_ (fdAt 33 45 25 1 1000)).withFetchWord 40 0x0000004E2)) =
      some ⟨34, 45, 25, 513, .noError, false⟩ := ⟨by decide, by decide⟩

theorem witness_ReachableBounds :
    Config.default.Sized ∧ Config.default.Legal ∧ execAll [.read] (State.powerOn Config.default) =
      .next { State.reset with rsp := Response.ofRead Config.default (FdState.initial Config.default) } :=
  ⟨by decide, by decide, rfl⟩

/-- Each case of a long pulse at position 39 and before; the run goes on with a falling edge within the frame. -/
theorem witness_LongPulseForcesMismatch :
    State.Inv (at_ (fdAt 39 45 25 35 1000)) ∧ (fdAt 39 45 25 35 1000).bitIndex.toInt ≤ 39 ∧
    dbPasses Config.default DbState.initial 1200 = true ∧ Config.default.longTh ≤ tickDiff Config.default 1000 1200 ∧
    withinFrame [.rise 1200, .fall 1250, .read] (at_ (fdAt 39 45 25 35 1000)) = true ∧
    State.Inv (at_ (fdAt (-2) 0 0 0 1000)) ∧ withinFrame [.rise 1200] (at_ (fdAt (-2) 0 0 0 1000)) = true := by decide

/-- 42 pulses of 70 ticks, 120 ticks apart, the first falling edge at program A's tick. -/
def somePulses : List (Tick × Tick) :=
  (List.range 42).map fun k => (BitVec.ofNat 32 (1018000 + 120 * k), BitVec.ofNat 32 (1018070 + 120 * k))

theorem witness_FrameDecodes :
    State.reset.cfg.Sized ∧ State.reset.cfg.dbEn = false ∧ somePulses.length = 42 ∧
    (∀ p, somePulses.head? = some p → State.reset.cfg.fallTh < tickDiff State.reset.cfg State.reset.fd.lastHighTick p.1) ∧
    List.IsChain (fun p q => tickDiff State.reset.cfg p.1 q.1 ≤ State.reset.cfg.fallTh) somePulses ∧
    (∀ p ∈ somePulses, tickDiff State.reset.cfg p.1 p.2 < State.reset.cfg.longTh) := by
  refine ⟨by decide, rfl, by decide, ?_, by set_option maxRecDepth 10000 in decide, ?_⟩
  · intro p hp
    cases (show some ((1018000 : Tick), (1018070 : Tick)) = some p from hp)
    decide
  · have h : somePulses.all (fun p => decide (tickDiff State.reset.cfg p.1 p.2 < State.reset.cfg.longTh)) = true := by
      set_option maxRecDepth 10000 in decide
    exact fun p hp => of_decide_eq_true (List.all_eq_true.1 h p hp)

/-- Program F: a second read cycle too soon after the first. -/
theorem witness_CompletedFrameStays :
    (at_ (fdAt 40 45 25 70 1021673)).cfg.Sized ∧ (fdAt 40 45 25 70 1021673).bitIndex.toInt = 40 ∧
    withinFrame [.rise 1100000, .fall 1118000, .rise 1118030, .read] (at_ (fdAt 40 45 25 70 1021673)) = true := by
  decide

/-- A step that changes every field a RISE may change, and one that changes the debounce field. -/
theorem witness_FieldWriters :
    row (exec (.rise 1070) (at_ (fdAt 39 45 25 35 1000))) = some ⟨40, 45, 25, 71, .checksumMismatch, true⟩ ∧
    dbRow (exec (.fall 100001) (acceptedAt debouncing 0)) = some (true, 100001) ∧
    (next? (exec (.fall 5) State.reset)).map (·.fd.lastHighTick) = some 5 := by decide

theorem witness_RepeatedOperations :
    State.reset.cfg.Sized ∧ State.reset.cfg.dbEn = false ∧ (acceptedAt debouncing 0).cfg.dbEn = true ∧
    dbPasses Config.default DbState.initial 1027 = true ∧ (fdAt 39 0 0 0 1000).bitIndex.toInt < 40 ∧
    row (exec (.rise 1027) (at_ (fdAt 39 0 0 0 1000))) = some ⟨40, 0, 0, 0, .noError, true⟩ := by decide

theorem witness_OnlyTickDifferencesCount :
    (acceptedAt debouncing 0).cfg.Sized ∧ (acceptedAt debouncing 0).cfg.dbMaxTick = .pow32 ∧ Instr.rise 3 ≠ .reset ∧
    shiftInstr 4294967295 (.rise 3) = .rise 2 := by decide

theorem witness_ResponseFields :
    State.reset.cfg.Sized ∧ isEventAt (.either 0) 0 ∧ dbPasses Config.default DbState.initial 0 = true ∧
    rspWord ⟨true, true, false, 0⟩ = 0x1800000000#37 := ⟨by decide, .inr (.inr rfl), by decide, by decide⟩

theorem witness_ReservedErrorCodeNeverDriven :
    (State.reset.withFetchWord 40 0x400000000).rsp.frame.extractLsb' 32 2 ≠ 0b11 ∧
    (next? (step (State.reset.withFetchWord 40 0x400000000))).map (fun t => t.rsp.frame.extractLsb' 32 2) =
      some 0b01 := by decide

theorem witness_ChecksumComparison :
    chkOk (fdAt 39 45 25 70 0) = true ∧ 256 ≤ (fdAt 39 45 25 65606 0).checksumAccum.toNat ∧
    State.reset.cfg.Sized ∧ (fdAt 39 45 25 35 1000).error ≠ .checksumMismatch ∧
    (next? (exec (.rise 1070) (at_ (fdAt 39 45 25 35 1000)))).map (·.fd.error) = some .checksumMismatch := by decide

/-- Both edges of every phase (R38), and RS5, RS9, RS13 and RS16: a 1 bit into each accumulator, and the force on a
complete frame; DB5's tick is filtered. -/
theorem witness_PhaseDecidesTheWrite :
    Config.default.Sized ∧
    [-2, -1, 0, 7, 8, 15, 16, 23, 24, 31, 32, 39, 40].map (fun b => phaseOf Config.default (BitVec.ofInt 8 b)) =
      [.preFrame, .preFrame, .receivingHumidity, .receivingHumidity, .humidityFraction, .humidityFraction,
       .receivingTemperature, .receivingTemperature, .temperatureFraction, .temperatureFraction,
       .receivingChecksum, .receivingChecksum, .complete] ∧
    dbPasses Config.default DbState.initial 1070 = true ∧ dbPasses debouncing ⟨7⟩ 7 = false ∧
    riseRows 1070 [fdAt 7 22 0 0 1000, fdAt 23 0 12 0 1000, fdAt 39 45 25 35 1000] =
      [some ⟨8, 45, 0, 0, .noError, false⟩, some ⟨24, 0, 25, 0, .noError, false⟩,
       some ⟨40, 45, 25, 71, .checksumMismatch, true⟩] ∧
    riseRows 1250 [fdAt 40 45 25 70 1000] = [some ⟨40, 45, 25, 256, .noError, false⟩] := by decide

/-! ### The sizes of R5 as parameters -/

/-- Program E1's last rising edge, a 0 bit that completes the checksum byte 70 behind a forced sentinel: with `CHK_BITS`
= 17 the comparison fails, with 16 the sentinel is dropped and it passes. -/
theorem test_chkBits_of_program_E1 :
    row (exec (.rise 1027) (at_ (fdAt 39 45 25 32803 1000))) =
      some ⟨40, 45, 25, 65606, .checksumMismatch, true⟩ ∧
    row (exec (.rise 1027) { at_ (fdAt 39 45 25 32803 1000) with cfg := { Config.default with chkBits := 16 } }) =
      some ⟨40, 45, 25, 70, .noError, true⟩ := by decide

/-- `FRAME_BITS`, `PREFRAME`, `TICK_BITS` with `TICK_MOD`, `ACC_BITS` and `BIDX_BITS`, each at another value, by hand: a
frame of 33 bits ends at position 32, a frame start writes the sentinel, the 16-bit wrap of an interval, a bit shifted
out of 4, and 7 + 1 in 4 bits of two's complement. -/
theorem test_other_sizes :
    row (exec (.rise 1027) { at_ (fdAt 32 0 0 0 1000) with cfg := { Config.default with frameBits := 33 } }) =
      some ⟨33, 0, 0, 0, .noError, true⟩ ∧
    row (exec (.fall 250001) { at_ (fdAt 5 9 0 0 0) with cfg := { Config.default with preframe := -3 } }) =
      some ⟨-3, 0, 0, 0, .noError, false⟩ ∧
    tickDiff { Config.default with tickBits := 16, tickMod := 65536 } 65500 36 = 72 ∧
    shiftIn 4 (9 : Accum) true = 3 ∧ indexOf { Config.default with bidxBits := 4 } 8 = -8 := by decide

end Sys2Proof.Tests
end

section
/-! PROOFS. The reset state (R20, R5) and what READ answers straight after power-on (R203). -/

namespace Sys2Proof.Machine

/-- READ keeps every field and answers with its classification, temperature and humidity (R126). -/
theorem exec_read (s : State) : exec .read s = .next { s with rsp := Response.ofRead s.cfg s.fd } := rfl

/-- The parameter values of R5 are the sizes the rules are written with. -/
theorem default_sized : Config.default.Sized := by decide

/-- The parameter values of R5 are a legal setting of the control registers (R30). -/
theorem default_legal : Config.default.Legal := by decide

/-- At the pre-frame sentinel, -2, the 40 bits of a frame are missing and no mismatch is stored. -/
theorem classify_initial {c : Config} (h : c.Sized) : classify c (FdState.initial c) = .incompleteFrame := by
  have hb : (FdState.initial c).bitIndex.toInt < 40 := by
    rw [initial_bitIndex, sized_preframe h]
    decide
  rw [classify_sized h, if_neg (by simp), if_pos hb]

/-- READ straight after power-on answers `{IncompleteFrame, 0, 0}`, whatever the control registers (R203). -/
theorem ofRead_initial_frame {c : Config} (h : c.Sized) :
    (Response.ofRead c (FdState.initial c)).frame = 0x100000000#34 := by
  simp only [Response.ofRead, classify_initial h, initial_temperatureAccum, initial_humidityAccum]
  decide

/-- Settles O21: the fields by their reset lemmas, the parameters by the value column of R5, and READ's answer from
the classification of the pre-frame sentinel. -/
theorem resetLeavesTheTablesValues : Obligations.ResetLeavesTheTablesValues := by
  have fields : State.reset.fd.bitIndex.toInt = -2 ∧ State.reset.fd.checksumAccum = 0 ∧
      State.reset.fd.temperatureAccum = 0 ∧ State.reset.fd.humidityAccum = 0 ∧ State.reset.fd.lastHighTick = 0 ∧
      State.reset.fd.error = .noError ∧ State.reset.db.lastAcceptedTick = 0 :=
    ⟨by decide, initial_checksumAccum _, initial_temperatureAccum _, initial_humidityAccum _,
      initial_lastHighTick _, initial_error _, initial_lastAcceptedTick⟩
  exact ⟨fields, rfl, default_sized, default_legal, _, exec_read _, ofRead_initial_frame default_sized⟩

end Sys2Proof.Machine
end

section
/-! PROOFS. What an operation, a step and a run can do: one inversion lemma each, and the induction along a run. -/

namespace Sys2Proof.Machine

/-- No operation writes a parameter or the model's record of its input ports (R30, R202). -/
theorem exec_cfg_stream {i : Instr} {s t : State} (h : exec i s = .next t) :
    t.cfg = s.cfg ∧ t.stream = s.stream := by
  cases i with
  | rise tick | fall tick | either tick => obtain ⟨-, rfl⟩ | ⟨-, rfl⟩ := runEvent_cases h <;> exact ⟨rfl, rfl⟩
  | read | reset | tdiff => cases h; exact ⟨rfl, rfl⟩
  | reserved3 | reserved6 | reserved7 => cases h

/-- What an operation does to the fields of R20: nothing, or it is RESET, or it is an event that DB_STAGE passed. -/
theorem exec_cases {i : Instr} {s t : State} (h : exec i s = .next t) :
    (t.fd = s.fd ∧ t.db = s.db) ∨
    (i = .reset ∧ t.fd = FdState.initial s.cfg ∧ t.db = DbState.initial) ∨
    ∃ tick, t.db = dbAccept s.cfg s.db tick ∧
      ((i = .rise tick ∧ t.fd = riseFd s.cfg tick s.fd) ∨ (i = .fall tick ∧ t.fd = fallFd s.cfg tick s.fd) ∨
        (i = .either tick ∧ t.fd = s.fd)) := by
  cases i with
  | rise tick =>
    obtain ⟨-, rfl⟩ | ⟨-, rfl⟩ := runEvent_cases h
    · exact .inr (.inr ⟨tick, rfl, .inl ⟨rfl, rfl⟩⟩)
    · exact .inl ⟨rfl, rfl⟩
  | fall tick =>
    obtain ⟨-, rfl⟩ | ⟨-, rfl⟩ := runEvent_cases h
    · exact .inr (.inr ⟨tick, rfl, .inr (.inl ⟨rfl, rfl⟩)⟩)
    · exact .inl ⟨rfl, rfl⟩
  | either tick =>
    obtain ⟨-, rfl⟩ | ⟨-, rfl⟩ := runEvent_cases h
    · exact .inr (.inr ⟨tick, rfl, .inr (.inr ⟨rfl, rfl⟩)⟩)
    · exact .inl ⟨rfl, rfl⟩
  | reset => cases h; exact .inr (.inl ⟨rfl, rfl, rfl⟩)
  | read | tdiff => cases h; exact .inl ⟨rfl, rfl⟩
  | reserved3 | reserved6 | reserved7 => cases h

/-- A step does nothing, or executes the oldest presented input (R58, R184). -/
theorem step_cases {s t : State} (h : step s = .next t) :
    (s.stream = [] ∧ t = s) ∨
    ∃ p rest, s.stream = p :: rest ∧ exec (decode p) { s with stream := rest } = .next t := by
  unfold step takeNext at h
  split at h
  · exact .inl ⟨‹_›, (Host.Outcome.next.inj h).symm⟩
  · exact .inr ⟨_, _, ‹_›, h⟩

/-- What every operation keeps holds after every run. -/
theorem execAll_keeps {P : State → Prop} (keeps : ∀ i s t, P s → exec i s = .next t → P t) {is : List Instr}
    {s t : State} (hs : P s) (h : execAll is s = .next t) : P t := by
  induction is generalizing s with
  | nil => cases h; exact hs
  | cons i is ih =>
    cases hi : exec i s with
    | next u => exact ih (keeps i s u hs hi) (by rwa [execAll_cons_next is hi] at h)
    | fault r => exact absurd hi (exec_ne_fault i s r)
    | refused r => rw [execAll_cons_refused is hi] at h; cases h

/-- The parameters stay what they were at power-on (R202). -/
theorem execAll_cfg {is : List Instr} {s t : State} (h : execAll is s = .next t) : t.cfg = s.cfg :=
  execAll_keeps (P := fun u => u.cfg = s.cfg) (fun _ _ _ hu hi => (exec_cfg_stream hi).1.trans hu) rfl h

end Sys2Proof.Machine
end

section
/-! PROOFS. The dispatch of a rising edge's bit (R123) as one equation, and the arithmetic of the bit and the force. -/

namespace Sys2Proof.Machine

/-- From position 40 on no window is open: the dispatch takes nothing. -/
theorem takeBit_complete {c : Config} (hc : c.Sized) (bv : Bool) {f : FdState} (h : 40 ≤ f.bitIndex.toInt) :
    takeBit c bv f = f := by
  rw [takeBit, sized_frameBits hc, if_neg (by omega), if_neg (by omega), if_neg (by omega)]

/-- At every position the dispatch takes the bit, and then moves `bit_index` on or clamps it. -/
theorem dispatchBit_sized {c : Config} (hc : c.Sized) (bv : Bool) (f : FdState) :
    dispatchBit c bv f =
      { takeBit c bv f with bitIndex := if 40 ≤ f.bitIndex.toInt then 40 else f.bitIndex + 1 } := by
  by_cases h : 40 ≤ f.bitIndex.toInt
  · rw [dispatchBit_complete hc bv h, takeBit_complete hc bv h, if_pos h]
  · rw [dispatchBit_inFrame hc bv (by omega), if_neg h]

/-- The position after the dispatch, as an integer. -/
theorem dispatchBit_bitIndex_toInt {c : Config} (hc : c.Sized) (bv : Bool) (f : FdState) :
    (dispatchBit c bv f).bitIndex.toInt = if 40 ≤ f.bitIndex.toInt then 40 else f.bitIndex.toInt + 1 := by
  rw [dispatchBit_sized hc]
  split_ifs with h
  · rfl
  · exact bitIndex_succ (by omega)

/-- The bit value as the number that is shifted in. -/
theorem bitValue_toNat (c : Config) (f : FdState) (tick : Tick) :
    (bitValue c f tick).toNat = if c.bit1Th ≤ tickDiff c f.lastHighTick tick then 1 else 0 := by
  rw [bitValue, edgeDiff]
  split_ifs with h <;> simp [h]

end Sys2Proof.Machine
end

section
/-! PROOFS. The invariant (R28, R33 to R36): it holds at reset, each write of the decoder keeps it, and so every step
and every run does. -/

namespace Sys2Proof.Machine

/-- The pre-frame state meets the invariant: no window has opened, and every accumulator is 0. -/
theorem FdState.inv_initial {c : Config} (hc : c.Sized) : (FdState.initial c).Inv c := by
  have hb : (FdState.initial c).bitIndex.toInt = -2 := by
    rw [initial_bitIndex, sized_preframe hc]
    rfl
  rw [FdState.Inv, hb]
  simp

/-- FALL keeps the invariant: it clears the decoder as RESET does, or writes `last_high_tick` alone, and the invariant
does not read that field. -/
theorem fallFd_inv {c : Config} (hc : c.Sized) (tick : Tick) {f : FdState} (hf : f.Inv c) :
    (fallFd c tick f).Inv c := by
  unfold fallFd
  split
  · exact FdState.inv_initial hc
  · exact hf

/-- The long-pulse force keeps the invariant: the sentinel is below every bound of the checksum accumulator. -/
theorem forceChecksum_inv {c : Config} (hc : c.Sized) (tick : Tick) {f : FdState} (hf : f.Inv c) :
    (forceChecksum c tick f).Inv c := by
  obtain ⟨hlow, hhigh, hhum, htemp, hchk, herr⟩ := hf
  have hforced : (forceChecksum c tick f).checksumAccum.toNat <
      (c.chkSentinel.toNat + 1) * 2 ^ (f.bitIndex.toInt - 32).toNat := by
    rw [forceChecksum_sized hc]
    split
    · exact Nat.lt_of_lt_of_le (Nat.lt_succ_self _) (Nat.le_mul_of_pos_right _ (Nat.two_pow_pos _))
    · exact hchk
  simpa [FdState.Inv] using ⟨hlow, hhigh, hhum, htemp, hforced, herr⟩

/-- One bit shifted in at most doubles an accumulator's bound. -/
theorem shiftIn_lt {w m : Nat} {x : BitVec (w + 1)} (bv : Bool) (h : x.toNat < m) :
    (shiftIn (w + 1) x bv).toNat < m * 2 := by
  rw [shiftIn_toNat rfl]
  have := Nat.mod_le (2 * x.toNat + bv.toNat) (2 ^ (w + 1))
  have := bv.toNat_le
  omega

/-- An accumulator of `k` bits over `m` keeps to its bound where `k` goes up by 1 with each bit taken, and never goes
down. -/
theorem shiftIn_window_lt {w m k k' : Nat} {x : BitVec (w + 1)} {taken : Prop} [Decidable taken] (bv : Bool)
    (hx : x.toNat < m * 2 ^ k) (htaken : taken → k' = k + 1) (hk : k ≤ k') :
    (if taken then shiftIn (w + 1) x bv else x).toNat < m * 2 ^ k' := by
  split
  next h =>
    rw [htaken h, Nat.pow_succ, ← Nat.mul_assoc]
    exact shiftIn_lt bv hx
  next => exact Nat.lt_of_lt_of_le hx (Nat.mul_le_mul_left m (Nat.pow_le_pow_right (by decide) hk))

/-- A mismatch stored after the dispatch was stored at 40, or is judged by the 40th bit (R36). -/
theorem takeBit_error_mismatch {c : Config} (hc : c.Sized) {bv : Bool} {f : FdState}
    (h : (takeBit c bv f).error = .checksumMismatch) :
    f.error = .checksumMismatch ∨ f.bitIndex.toInt = 39 := by
  rw [takeBit_error hc] at h
  split_ifs at h with h39 hok hwindow
  · exact .inr h39
  · exact .inr h39
  · exact .inl h

/-- The dispatch stores no IncompleteFrame (R28). -/
theorem takeBit_error_ne_incompleteFrame {c : Config} (hc : c.Sized) (bv : Bool) {f : FdState}
    (h : f.error ≠ .incompleteFrame) : (takeBit c bv f).error ≠ .incompleteFrame := by
  rw [takeBit_error hc]
  split_ifs <;> simp [h]

/-- The dispatch keeps the invariant: each window's bound grows with the bit it takes. -/
theorem dispatchBit_inv {c : Config} (hc : c.Sized) (bv : Bool) {f : FdState} (hf : f.Inv c) :
    (dispatchBit c bv f).Inv c := by
  obtain ⟨hlow, hhigh, hhum, htemp, hchk, hmis, hinc⟩ := hf
  have hb := dispatchBit_bitIndex_toInt hc bv f
  rw [FdState.Inv, hb, dispatchBit_sized hc]
  refine ⟨by omega, by omega, ?_, ?_, ?_, ?_, takeBit_error_ne_incompleteFrame hc bv hinc⟩
  · rw [← Nat.one_mul (2 ^ _)] at hhum ⊢
    simp only [takeBit_humidityAccum hc]
    exact shiftIn_window_lt bv hhum (by omega) (by omega)
  · rw [← Nat.one_mul (2 ^ _)] at htemp ⊢
    simp only [takeBit_temperatureAccum hc]
    exact shiftIn_window_lt bv htemp (by omega) (by omega)
  · simp only [takeBit_checksumAccum hc]
    exact shiftIn_window_lt bv hchk (by omega) (by omega)
  · intro h
    have := (takeBit_error_mismatch hc h).imp_left hmis
    omega

/-- RISE keeps the invariant. -/
theorem riseFd_inv {c : Config} (hc : c.Sized) (tick : Tick) {f : FdState} (hf : f.Inv c) :
    (riseFd c tick f).Inv c :=
  dispatchBit_inv hc _ (forceChecksum_inv hc tick hf)

/-- Every operation keeps the invariant. -/
theorem exec_keeps_inv {i : Instr} {s t : State} (hs : s.Inv) (h : exec i s = .next t) : t.Inv := by
  obtain ⟨hsized, hlegal, hfd⟩ := hs
  rw [State.Inv, (exec_cfg_stream h).1]
  refine ⟨hsized, hlegal, ?_⟩
  obtain ⟨hf, -⟩ | ⟨-, hf, -⟩ | ⟨tick, -, ⟨-, hf⟩ | ⟨-, hf⟩ | ⟨-, hf⟩⟩ := exec_cases h <;> rw [hf]
  · exact hfd
  · exact FdState.inv_initial hsized
  · exact riseFd_inv hsized tick hfd
  · exact fallFd_inv hsized tick hfd
  · exact hfd

/-- Settles O26: a step holds the state or executes an operation, whose start differs in the stream alone, which the
invariant does not read. -/
theorem stepKeepsInv : Obligations.StepKeepsInv := by
  intro s t hs h
  obtain ⟨-, rfl⟩ | ⟨p, rest, -, hexec⟩ := step_cases h
  · exact hs
  · exact exec_keeps_inv (s := { s with stream := rest }) hs hexec

/-- A block at power-on meets the invariant, whatever its legal parameters. -/
theorem powerOn_inv {c : Config} (hsized : c.Sized) (hlegal : c.Legal) : (State.powerOn c).Inv :=
  ⟨hsized, hlegal, FdState.inv_initial hsized⟩

/-- Settles O25: reset is the power-on with the parameters of R5. -/
theorem resetMeetsInv : Obligations.ResetMeetsInv :=
  ⟨powerOn_inv default_sized default_legal, fun _ => powerOn_inv⟩

/-- A bound of at most 8 bits over `m` is a bound of 8 bits. -/
theorem le_of_lt_mul_two_pow {n m k : Nat} (h : n < (m + 1) * 2 ^ k) (hk : k ≤ 8) : n ≤ m * 2 ^ 8 + 255 := by
  have : (m + 1) * 2 ^ k ≤ (m + 1) * 2 ^ 8 := Nat.mul_le_mul_left _ (Nat.pow_le_pow_right (by decide) hk)
  omega

/-- The bounds of R34 and R35 follow from those position by position: no window takes more than 8 bits. -/
theorem FdState.Inv.bounds {c : Config} {f : FdState} (h : f.Inv c) :
    f.humidityAccum.toNat ≤ 255 ∧ f.temperatureAccum.toNat ≤ 255 ∧
      f.checksumAccum.toNat ≤ c.chkSentinel.toNat * 2 ^ 8 + 255 := by
  obtain ⟨-, hhigh, hhum, htemp, hchk, -⟩ := h
  refine ⟨?_, ?_, le_of_lt_mul_two_pow hchk (by omega)⟩
  · simpa using le_of_lt_mul_two_pow (m := 0) (by simpa using hhum) (by omega)
  · simpa using le_of_lt_mul_two_pow (m := 0) (by simpa using htemp) (by omega)

/-- Settles O27: the invariant holds at power-on, every operation keeps it, and it gives the bounds. -/
theorem reachableBounds : Obligations.ReachableBounds := by
  intro c is t hsized hlegal h
  have hinv : t.Inv := execAll_keeps (fun _ _ _ => exec_keeps_inv) (powerOn_inv hsized hlegal) h
  have hcfg : t.cfg = c := execAll_cfg h
  obtain ⟨-, -, hfd⟩ := hinv
  rw [hcfg] at hfd
  obtain ⟨hhum, htemp, hchk⟩ := hfd.bounds
  obtain ⟨hlow, hhigh, -, -, -, hmis, hinc⟩ := hfd
  exact ⟨⟨hlow, hhigh⟩, hhum, htemp, hchk, hmis, hinc⟩

end Sys2Proof.Machine
end

section
/-! PROOFS. Which operation writes which field (R20), what a RISE writes in each phase (R38, R53), and what READ shows
(R31). -/

namespace Sys2Proof.Machine

/-- No rising edge writes `last_high_tick` (R27). -/
@[simp] theorem riseFd_lastHighTick (c : Config) (tick : Tick) (f : FdState) :
    (riseFd c tick f).lastHighTick = f.lastHighTick := by simp [riseFd]

/-- The debounce field changes only with debounce on, and then to the event's tick (R29, R105). -/
theorem dbAccept_ne {c : Config} {d : DbState} {tick : Tick} (h : dbAccept c d tick ≠ d) :
    c.dbEn = true ∧ (dbAccept c d tick).lastAcceptedTick = tickOf c tick := by
  have hon : c.dbEn = true := by
    by_contra hoff
    exact h (dbAccept_off d tick (by simpa using hoff))
  exact ⟨hon, by rw [dbAccept_on d tick hon]⟩

/-- `last_high_tick` is written by FALL and RESET alone (R27). -/
theorem exec_lastHighTick_writers {i : Instr} {s t : State} (h : exec i s = .next t)
    (hne : t.fd.lastHighTick ≠ s.fd.lastHighTick) : i = .reset ∨ ∃ tick, i = .fall tick := by
  obtain ⟨hf, -⟩ | ⟨hi, -, -⟩ | ⟨tick, -, ⟨-, hf⟩ | ⟨hi, -⟩ | ⟨-, hf⟩⟩ := exec_cases h
  · exact absurd (by rw [hf]) hne
  · exact .inl hi
  · exact absurd (by rw [hf, riseFd_lastHighTick]) hne
  · exact .inr ⟨tick, hi⟩
  · exact absurd (by rw [hf]) hne

/-- The decoder is written by RISE, FALL and RESET alone (R20, R21). -/
theorem exec_fd_writers {i : Instr} {s t : State} (h : exec i s = .next t) (hne : t.fd ≠ s.fd) :
    i = .reset ∨ (∃ tick, i = .fall tick) ∨ ∃ tick, i = .rise tick := by
  obtain ⟨hf, -⟩ | ⟨hi, -, -⟩ | ⟨tick, -, ⟨hi, -⟩ | ⟨hi, -⟩ | ⟨-, hf⟩⟩ := exec_cases h
  · exact absurd hf hne
  · exact .inl hi
  · exact .inr (.inr ⟨tick, hi⟩)
  · exact .inr (.inl ⟨tick, hi⟩)
  · exact absurd hf hne

/-- The debounce field is written by RESET, and by an event under debounce with the event's tick (R29). -/
theorem exec_db_writers {i : Instr} {s t : State} (h : exec i s = .next t) (hne : t.db ≠ s.db) :
    i = .reset ∨ (s.cfg.dbEn = true ∧ ∃ tick, isEventAt i tick ∧ t.db.lastAcceptedTick = tickOf s.cfg tick) := by
  obtain ⟨-, hd⟩ | ⟨hi, -, -⟩ | ⟨tick, hd, hevent⟩ := exec_cases h
  · exact absurd hd hne
  · exact .inl hi
  · have hi : isEventAt i tick := hevent.imp And.left (Or.imp And.left And.left)
    rw [hd] at hne ⊢
    obtain ⟨hon, htick⟩ := dbAccept_ne hne
    exact .inr ⟨hon, tick, hi, htick⟩

/-- Settles O31: field by field, by the operations that write it. -/
theorem fieldWriters : Obligations.FieldWriters := by
  intro i s t h
  refine ⟨exec_lastHighTick_writers h, fun hne => exec_fd_writers h ?_, exec_db_writers h, exec_cfg_stream h⟩
  intro heq
  simp [heq] at hne

/-- The humidity phase as a range of positions (R38). -/
theorem phaseOf_receivingHumidity (c : Config) (b : BitIndex) :
    phaseOf c b = .receivingHumidity ↔ 0 ≤ b.toInt ∧ b.toInt ≤ 7 := by
  unfold phaseOf; split_ifs <;> simp <;> omega

/-- The temperature phase as a range of positions (R38). -/
theorem phaseOf_receivingTemperature (c : Config) (b : BitIndex) :
    phaseOf c b = .receivingTemperature ↔ 16 ≤ b.toInt ∧ b.toInt ≤ 23 := by
  unfold phaseOf; split_ifs <;> simp <;> omega

/-- The checksum phase as a range of positions (R38). -/
theorem phaseOf_receivingChecksum {c : Config} (hc : c.Sized) (b : BitIndex) :
    phaseOf c b = .receivingChecksum ↔ 32 ≤ b.toInt ∧ b.toInt ≤ 39 := by
  unfold phaseOf; rw [sized_frameBits hc]; split_ifs <;> simp <;> omega

/-- The last phase as a range of positions (R38). -/
theorem phaseOf_complete {c : Config} (hc : c.Sized) (b : BitIndex) :
    phaseOf c b = .complete ↔ 40 ≤ b.toInt := by
  unfold phaseOf; rw [sized_frameBits hc]; split_ifs <;> simp <;> omega

/-- RISE shifts its bit into the humidity accumulator in the humidity phase, and else keeps it (R53, R123). -/
theorem riseFd_humidityAccum_toNat {c : Config} (hc : c.Sized) (tick : Tick) (f : FdState) :
    (riseFd c tick f).humidityAccum.toNat =
      if phaseOf c f.bitIndex = .receivingHumidity then
        (2 * f.humidityAccum.toNat + (bitValue c f tick).toNat) % 2 ^ 16
      else f.humidityAccum.toNat := by
  simp only [riseFd, dispatchBit_sized hc, takeBit_humidityAccum hc, forceChecksum_bitIndex,
    forceChecksum_humidityAccum, phaseOf_receivingHumidity]
  rw [apply_ite BitVec.toNat, shiftIn_toNat rfl]

/-- RISE shifts its bit into the temperature accumulator in the temperature phase, and else keeps it (R53, R123). -/
theorem riseFd_temperatureAccum_toNat {c : Config} (hc : c.Sized) (tick : Tick) (f : FdState) :
    (riseFd c tick f).temperatureAccum.toNat =
      if phaseOf c f.bitIndex = .receivingTemperature then
        (2 * f.temperatureAccum.toNat + (bitValue c f tick).toNat) % 2 ^ 16
      else f.temperatureAccum.toNat := by
  simp only [riseFd, dispatchBit_sized hc, takeBit_temperatureAccum hc, forceChecksum_bitIndex,
    forceChecksum_temperatureAccum, phaseOf_receivingTemperature]
  rw [apply_ite BitVec.toNat, shiftIn_toNat rfl]

/-- RISE forces the checksum accumulator first, and shifts its bit into what that leaves in the checksum phase (R53,
R123). -/
theorem riseFd_checksumAccum_toNat {c : Config} (hc : c.Sized) (tick : Tick) (f : FdState) :
    (riseFd c tick f).checksumAccum.toNat =
      if phaseOf c f.bitIndex = .receivingChecksum then
        (2 * (forceChecksum c tick f).checksumAccum.toNat + (bitValue c f tick).toNat) % 2 ^ 17
      else (forceChecksum c tick f).checksumAccum.toNat := by
  simp only [riseFd, dispatchBit_sized hc, takeBit_checksumAccum hc, forceChecksum_bitIndex,
    phaseOf_receivingChecksum hc]
  rw [apply_ite BitVec.toNat, shiftIn_toNat rfl]

/-- What the long-pulse force leaves in the checksum accumulator, by the time since the latest falling edge. -/
theorem forceChecksum_tickDiff {c : Config} (hc : c.Sized) (tick : Tick) (f : FdState) :
    (forceChecksum c tick f).checksumAccum =
      if c.longTh ≤ tickDiff c f.lastHighTick tick then c.chkSentinel else f.checksumAccum := by
  rw [forceChecksum_sized hc]
  exact if_congr decide_eq_true_iff rfl rfl

/-- RISE clamps the position of a complete frame to 40 (R123). -/
theorem riseFd_bitIndex_complete {c : Config} (hc : c.Sized) (tick : Tick) {f : FdState}
    (h : phaseOf c f.bitIndex = .complete) : (riseFd c tick f).bitIndex = 40 := by
  rw [riseFd, dispatchBit_complete hc _ (by simpa using (phaseOf_complete hc _).1 h)]

/-- Settles O37: a filtered RISE keeps the decoder, and a passed one writes accumulator by accumulator. -/
theorem phaseDecidesTheWrite : Obligations.PhaseDecidesTheWrite := by
  intro tick s hc bit checksum phase
  cases hp : dbPasses s.cfg s.db tick with
  | false => exact ⟨_, runEvent_filtered _ _ hp, fun _ => rfl, fun h => absurd h Bool.false_ne_true⟩
  | true =>
    have hbit : (bitValue s.cfg s.fd tick).toNat = bit := bitValue_toNat _ _ _
    have hchk : (forceChecksum s.cfg tick s.fd).checksumAccum = checksum := forceChecksum_tickDiff hc _ _
    refine ⟨_, runEvent_pass _ _ hp, fun h => absurd h.symm Bool.false_ne_true, fun _ => ⟨?_, ?_, ?_, ?_⟩⟩
    · rw [← hbit]; exact riseFd_humidityAccum_toNat hc tick s.fd
    · rw [← hbit]; exact riseFd_temperatureAccum_toNat hc tick s.fd
    · rw [← hbit, ← hchk]; exact riseFd_checksumAccum_toNat hc tick s.fd
    · intro hcomplete
      have h40 := riseFd_bitIndex_complete hc tick hcomplete
      exact ⟨h40, (phaseOf_complete hc _).2 (by rw [h40]; decide)⟩

/-- Decoders with the same stored error, on the same side of position 40, are classified alike (R126). -/
theorem classify_congr {c d : Config} (hc : c.Sized) (hd : d.Sized) {f g : FdState} (herr : f.error = g.error)
    (hb : f.bitIndex.toInt < 40 ↔ g.bitIndex.toInt < 40) : classify c f = classify d g := by
  simp only [classify_sized hc, classify_sized hd, herr, hb]

/-- Settles O18: READ's response is made of the classification and the two data accumulators. -/
theorem readHidesTheRest : Obligations.ReadHidesTheRest := by
  intro s t hs ht herr hb htemp hhum
  have hrsp : Response.ofRead s.cfg s.fd = Response.ofRead t.cfg t.fd := by
    simp only [Response.ofRead, classify_congr hs ht herr hb, htemp, hhum]
  exact ⟨Response.ofRead s.cfg s.fd, exec_read s, by rw [hrsp, exec_read]⟩

end Sys2Proof.Machine
end

section
/-! PROOFS. The order of operations: how a step takes the next one (R58, R184), TDIFF beside the commands (R101), and
what repeating an operation does (R57). -/

namespace Sys2Proof.Machine

/-- A step executes the oldest presented input, on the state with that input taken (R58). -/
theorem step_of_stream_cons {s : State} {p : PortInput} {rest : List PortInput} (h : s.stream = p :: rest) :
    step s = exec (decode p) { s with stream := rest } := by
  rw [step, takeNext, h]

/-- With nothing presented a step does nothing (R184). -/
theorem step_of_stream_nil {s : State} (h : s.stream = []) : step s = .next s := by
  rw [step, takeNext, h]

/-- A table word that names an operation is a port input that decodes to it. -/
theorem decodeTableWord_eq_some {nbits w : Nat} {i : Instr} (h : decodeTableWord nbits w = some i) :
    ∃ p, portInput nbits w = .ok p ∧ decode p = i := by
  unfold decodeTableWord at h
  split at h
  · exact ⟨_, ‹_›, Option.some.inj h⟩
  · cases h

/-- Presenting a word puts its input ahead of the others. -/
theorem withFetchWord_of_ok {nbits w : Nat} {p : PortInput} (s : State) (h : portInput nbits w = .ok p) :
    s.withFetchWord nbits w = { s with stream := p :: s.stream } := by
  rw [State.withFetchWord, presentWord, h]

/-- Settles O6: the two cases of the stream, and a presented word stands at its head. -/
theorem stepRunsDecoded : Obligations.StepRunsDecoded := by
  refine ⟨fun _ _ _ => step_of_stream_cons, fun _ => step_of_stream_nil, fun s nbits w i h => ?_⟩
  obtain ⟨p, hp, rfl⟩ := decodeTableWord_eq_some h
  rw [withFetchWord_of_ok s hp, step_of_stream_cons rfl]

/-- No command word is a TDIFF: it has a port of its own (R74). -/
theorem decode_cmd_ne_tdiff (w : CmdWord) (earlier later : Tick) : decode (.cmd w) ≠ .tdiff earlier later := by
  rw [decode, decodeCmd]
  split <;> exact Instr.noConfusion

/-- An event does not look at `TD_OUT`, and keeps it. -/
theorem runEvent_tdOut (tick : Tick) (fd' : FdState) (wd : Bool) (s : State) (d : Tick) :
    runEvent tick fd' wd { s with tdOut := d } =
      mapNext (fun t => { t with tdOut := d }) (runEvent tick fd' wd s) := by
  unfold runEvent
  split <;> rfl

/-- No operation looks at `TD_OUT`, and only TDIFF writes it. -/
theorem exec_tdOut {i : Instr} (hi : ∀ e l, i ≠ .tdiff e l) (s : State) (d : Tick) :
    exec i { s with tdOut := d } = mapNext (fun t => { t with tdOut := d }) (exec i s) := by
  cases i with
  | rise | fall | either => exact runEvent_tdOut _ _ _ s d
  | read | reset | reserved3 | reserved6 | reserved7 => rfl
  | tdiff e l => exact absurd rfl (hi e l)

/-- TDIFF writes `TD_OUT` alone (R101). -/
theorem exec_tdiff (e l : Tick) (s : State) :
    exec (.tdiff e l) s = .next { s with tdOut := tickDiff s.cfg e l } := rfl

/-- Settles O8: a command neither reads nor writes `TD_OUT`, and TDIFF reads only the parameters, which no command
writes. -/
theorem tdiffCommutesWithCommands : Obligations.TdiffCommutesWithCommands := by
  intro w earlier later s t h
  refine ⟨?_, ?_⟩
  · rw [exec_tdiff, (exec_cfg_stream h).1]
  · rw [exec_tdOut (decode_cmd_ne_tdiff w), h]
    rfl

/-- No time passes for the debounce stage from a tick to itself. -/
theorem dbElapsed_tickOf_self (c : Config) (tick : Tick) : dbElapsed c (tickOf c tick) tick = 0 := by
  simp [dbElapsed, tickOf]

/-- With debounce on, an accepted tick is filtered when it comes again (R108). -/
theorem dbPasses_dbAccept {c : Config} (h : c.dbEn = true) (d : DbState) (tick : Tick) :
    dbPasses c (dbAccept c d tick) tick = false := by
  rw [← Bool.not_eq_true, dbPasses_on _ _ h, dbAccept_on _ _ h, dbElapsed_tickOf_self]
  exact Nat.not_lt_zero _

/-- With debounce on, DB_STAGE filters a tick that it has just seen, whatever it did with it then. -/
theorem runEvent_dbPasses_again {tick : Tick} {fd' : FdState} {wd : Bool} {s t : State} (hon : s.cfg.dbEn = true)
    (h : runEvent tick fd' wd s = .next t) : dbPasses t.cfg t.db tick = false := by
  obtain ⟨-, rfl⟩ | ⟨hfiltered, rfl⟩ := runEvent_cases h
  · exact dbPasses_dbAccept hon s.db tick
  · exact hfiltered

/-- An event command is DB_STAGE and then a write of the decoder (R120). -/
theorem exec_event {i : Instr} {tick : Tick} (hi : isEventAt i tick) (s : State) :
    ∃ fd' wd, exec i s = runEvent tick fd' wd s := by
  obtain rfl | rfl | rfl := hi <;> exact ⟨_, _, rfl⟩

/-- With debounce on, an event repeated with the same tick is filtered (R57). -/
theorem exec_event_again {i : Instr} {tick : Tick} {s t : State} (hi : isEventAt i tick) (hon : s.cfg.dbEn = true)
    (h : exec i s = .next t) : exec i t = .next { t with rsp := Response.filtered } := by
  obtain ⟨fd', wd, hs⟩ := exec_event hi s
  obtain ⟨fd'', wd', ht⟩ := exec_event hi t
  rw [hs] at h
  rw [ht, runEvent_filtered _ _ (runEvent_dbPasses_again hon h)]

/-- With debounce off every event reaches the decoder, and the stage keeps its field (R102). -/
theorem runEvent_off {s : State} (tick : Tick) (fd' : FdState) (wd : Bool) (h : s.cfg.dbEn = false) :
    runEvent tick fd' wd s = .next { s with fd := fd', rsp := Response.passed wd } := by
  rw [runEvent_pass _ _ (dbPasses_off _ _ h), dbAccept_off _ _ h]

/-- Every falling edge is the reference of the next interval (R27). -/
theorem fallFd_lastHighTick (c : Config) (tick : Tick) (f : FdState) :
    (fallFd c tick f).lastHighTick = tickOf c tick := by
  unfold fallFd
  split <;> rfl

/-- A falling edge at the tick of the one before starts no frame. -/
theorem isFrameStart_fallFd (c : Config) (tick : Tick) (f : FdState) :
    isFrameStart c (fallFd c tick f) tick = false := by
  rw [isFrameStart, edgeDiff, fallFd_lastHighTick, tickDiff_tickOf, tickDiff_self]
  exact decide_eq_false BitVec.not_lt_zero

/-- The decoder's part of FALL is idempotent (R57). -/
theorem fallFd_fallFd (c : Config) (tick : Tick) (f : FdState) :
    fallFd c tick (fallFd c tick f) = fallFd c tick f := by
  rw [fallFd, isFrameStart_fallFd, ← fallFd_lastHighTick c tick f]
  rfl

/-- FALL with debounce off (R102, R122). -/
theorem exec_fall_off {s : State} (tick : Tick) (h : s.cfg.dbEn = false) :
    exec (.fall tick) s = .next { s with fd := fallFd s.cfg tick s.fd, rsp := Response.passed false } :=
  runEvent_off _ _ _ h

/-- With debounce off FALL repeated with the same tick gives the same state (R57). -/
theorem exec_fall_again {tick : Tick} {s t : State} (hoff : s.cfg.dbEn = false) (h : exec (.fall tick) s = .next t) :
    exec (.fall tick) t = .next t := by
  cases (exec_fall_off tick hoff).symm.trans h
  rw [exec_fall_off tick (by exact hoff), fallFd_fallFd]

/-- With debounce off EITHER changes the response alone, and repeated gives the same state (R57, R124). -/
theorem exec_either_again {tick : Tick} {s t : State} (hoff : s.cfg.dbEn = false)
    (h : exec (.either tick) s = .next t) : t.fd = s.fd ∧ t.db = s.db ∧ exec (.either tick) t = .next t := by
  cases (runEvent_off _ _ _ hoff).symm.trans h
  exact ⟨rfl, rfl, runEvent_off _ _ _ hoff⟩

/-- A RISE that passes below position 40 moves `bit_index` on (R57, R123). -/
theorem exec_rise_bitIndex_ne {tick : Tick} {s t : State} (hc : s.cfg.Sized) (hp : dbPasses s.cfg s.db tick = true)
    (hb : s.fd.bitIndex.toInt < 40) (h : exec (.rise tick) s = .next t) : t.fd.bitIndex ≠ s.fd.bitIndex := by
  cases (runEvent_pass _ _ hp).symm.trans h
  have hnext : (riseFd s.cfg tick s.fd).bitIndex.toInt = s.fd.bitIndex.toInt + 1 := by
    rw [riseFd, dispatchBit_bitIndex_toInt hc, forceChecksum_bitIndex, if_neg (Int.not_le.2 hb)]
  intro heq
  rw [heq] at hnext
  omega

/-- Settles O32, operation by operation. -/
theorem repeatedOperations : Obligations.RepeatedOperations := by
  have hread : ∀ s t : State, exec .read s = .next t → exec .read t = .next t := by rintro s _ ⟨⟩; rfl
  have hreset : ∀ s t : State, exec .reset s = .next t → exec .reset t = .next t := by rintro s _ ⟨⟩; rfl
  have htdiff : ∀ (e l : Tick) (s t : State), exec (.tdiff e l) s = .next t → exec (.tdiff e l) t = .next t := by
    rintro e l s _ ⟨⟩; rfl
  exact ⟨hread, hreset, htdiff, fun _ _ _ => exec_fall_again, fun _ _ _ => exec_either_again,
    fun _ _ _ _ => exec_event_again, fun _ _ _ => exec_rise_bitIndex_ne⟩

end Sys2Proof.Machine
end

section
/-! PROOFS. A well-formed frame decodes (R129): the decoder after `n` pulses as a function of the bits they carry, kept
by each pulse. -/

namespace Sys2Proof.Machine

/-- A list of bits read MSB first takes one more at its low end (R52). -/
theorem msbFirst_append_singleton (bits : List Bool) (b : Bool) :
    msbFirst (bits ++ [b]) = 2 * msbFirst bits + b.toNat := by
  simp [msbFirst]

/-- A number read from `n` bits is below `2 ^ n`. -/
theorem msbFirst_lt (bits : List Bool) : msbFirst bits < 2 ^ bits.length := by
  induction bits using List.reverseRecOn with
  | nil => decide
  | append_singleton bits b ih =>
    have := b.toNat_le
    rw [msbFirst_append_singleton, List.length_append, List.length_singleton, Nat.pow_succ]
    omega

/-- The byte that the pulses from number `k` on carry, of the bits that have come so far. -/
def byteFrom (k : Nat) (bits : List Bool) : Nat := msbFirst ((bits.drop k).take 8)

/-- A byte has 8 bits. -/
theorem byteFrom_lt (k : Nat) (bits : List Bool) : byteFrom k bits < 256 :=
  calc byteFrom k bits
    _ < 2 ^ ((bits.drop k).take 8).length := msbFirst_lt _
    _ ≤ 2 ^ 8 := Nat.pow_le_pow_right (by decide) (List.length_take_le _ _)

/-- One more bit is shifted into the byte whose window is open, and leaves the others. -/
theorem byteFrom_append_singleton (k : Nat) (bits : List Bool) (b : Bool) :
    byteFrom k (bits ++ [b]) =
      if k ≤ bits.length ∧ bits.length ≤ k + 7 then 2 * byteFrom k bits + b.toNat else byteFrom k bits := by
  unfold byteFrom
  split_ifs with h
  · rw [List.drop_append_of_le_length h.1, ← msbFirst_append_singleton,
      List.take_of_length_le (by simp; omega), List.take_of_length_le (by simp; omega)]
  · by_cases hk : k ≤ bits.length
    · rw [List.drop_append_of_le_length hk, List.take_append_of_le_length (by simp; omega)]
    · rw [List.drop_eq_nil_of_le (by simp; omega), List.drop_eq_nil_of_le (by omega)]

/-- The error a frame decoder stores after these bits, none of a long pulse: NoError until the last bit, which judges
the checksum byte (R125). -/
def verdict (bits : List Bool) : ErrorKind :=
  if bits.length = 42 ∧ byteFrom 34 bits ≠ (byteFrom 2 bits + byteFrom 18 bits) % 256 then .checksumMismatch
  else .noError

/-- The decoder has taken these bits since the frame start, none of a long pulse: the first two carry no frame bit,
and each accumulator holds its byte as far as it has come (R53, R129). -/
structure FdState.HasTaken (bits : List Bool) (f : FdState) : Prop where
  bitIndex : f.bitIndex.toInt = bits.length - 2
  humidity : f.humidityAccum.toNat = byteFrom 2 bits
  temperature : f.temperatureAccum.toNat = byteFrom 18 bits
  checksum : f.checksumAccum.toNat = byteFrom 34 bits
  error : f.error = verdict bits

/-- A falling edge that starts no frame keeps what the decoder has taken. -/
theorem fallFd_hasTaken {c : Config} {tick : Tick} {bits : List Bool} {f : FdState} (hf : f.HasTaken bits)
    (h : isFrameStart c f tick = false) : (fallFd c tick f).HasTaken bits := by
  obtain ⟨hb, hhum, htemp, hchk, herr⟩ := hf
  rw [fallFd, h]
  exact ⟨hb, hhum, htemp, hchk, herr⟩

/-- After a frame start the decoder has taken no bit. -/
theorem fallFd_hasTaken_nil {c : Config} (hc : c.Sized) {tick : Tick} {f : FdState}
    (h : isFrameStart c f tick = true) : (fallFd c tick f).HasTaken [] := by
  rw [fallFd, h]
  exact ⟨congrArg BitVec.toInt (sized_preframe hc), rfl, rfl, rfl, rfl⟩

/-- What RISE stores in `error`: the 40th bit judges the checksum, and the windows of the data bytes clear it (R123). -/
theorem riseFd_error {c : Config} (hc : c.Sized) (tick : Tick) (f : FdState) :
    (riseFd c tick f).error =
      if f.bitIndex.toInt = 39 then
        if (f.humidityAccum.toNat + f.temperatureAccum.toNat) % 256 = (riseFd c tick f).checksumAccum.toNat then f.error
        else .checksumMismatch
      else if (0 ≤ f.bitIndex.toInt ∧ f.bitIndex.toInt ≤ 7) ∨ (16 ≤ f.bitIndex.toInt ∧ f.bitIndex.toInt ≤ 23) then
        .noError
      else f.error := by
  simp only [riseFd, dispatchBit_sized hc, takeBit_error hc, takeBit_checksumAccum hc, chkOk_iff,
    forceChecksum_bitIndex, forceChecksum_humidityAccum, forceChecksum_temperatureAccum, forceChecksum_error]
  by_cases h : f.bitIndex.toInt = 39 <;> simp [h]

/-- Before the last bit no mismatch is recorded. -/
theorem verdict_of_length_ne {bits : List Bool} (h : bits.length ≠ 42) : verdict bits = .noError :=
  if_neg fun hv => h hv.1

/-- RISE at the end of a pulse that is not long takes its bit: each accumulator's window is open exactly when its byte
takes the bit. -/
theorem riseFd_hasTaken {c : Config} (hc : c.Sized) {tick : Tick} {bits : List Bool} {f : FdState}
    (hf : f.HasTaken bits) (hlen : bits.length < 42) (hshort : isLongPulse c f tick = false) :
    (riseFd c tick f).HasTaken (bits ++ [bitValue c f tick]) := by
  obtain ⟨hb, hhum, htemp, hchk, herr⟩ := hf
  have hforce : forceChecksum c tick f = f := by simp [forceChecksum, hshort]
  have hchk' : (riseFd c tick f).checksumAccum.toNat = byteFrom 34 (bits ++ [bitValue c f tick]) := by
    have := byteFrom_lt 34 bits
    have := (bitValue c f tick).toNat_le
    simp only [riseFd_checksumAccum_toNat hc, hforce, phaseOf_receivingChecksum hc, hb, hchk,
      byteFrom_append_singleton]
    split_ifs <;> omega
  refine ⟨?_, ?_, ?_, hchk', ?_⟩
  · simp only [riseFd, hforce, dispatchBit_bitIndex_toInt hc, hb, List.length_append, List.length_singleton]
    split_ifs <;> omega
  · have := byteFrom_lt 2 bits
    have := (bitValue c f tick).toNat_le
    simp only [riseFd_humidityAccum_toNat hc, phaseOf_receivingHumidity, hb, hhum, byteFrom_append_singleton]
    split_ifs <;> omega
  · have := byteFrom_lt 18 bits
    have := (bitValue c f tick).toNat_le
    simp only [riseFd_temperatureAccum_toNat hc, phaseOf_receivingTemperature, hb, htemp, byteFrom_append_singleton]
    split_ifs <;> omega
  · rw [riseFd_error hc, hchk', hb, hhum, htemp, herr, verdict_of_length_ne (by omega)]
    by_cases hlast : bits.length = 41
    · simp [hlast, verdict, byteFrom_append_singleton 2, byteFrom_append_singleton 18, eq_comm]
    · rw [verdict_of_length_ne (by simp; omega), if_neg (by omega), ite_self]

/-- The bit a pulse carries, by its width (R123). -/
def pulseBit (c : Config) (p : Tick × Tick) : Bool := decide (c.bit1Th ≤ tickDiff c p.1 p.2)

/-- RISE at the end of a pulse sees the pulse's bit: the interval begins at the pulse's own falling edge. -/
theorem bitValue_fallFd {c : Config} (hc : c.Sized) (p : Tick × Tick) (f : FdState) :
    bitValue c (fallFd c p.1 f) p.2 = pulseBit c p := by
  rw [bitValue, edgeDiff, fallFd_lastHighTick, tickOf_sized hc, pulseBit]

/-- RISE at the end of a pulse shorter than `LONG_TH` forces nothing. -/
theorem isLongPulse_fallFd {c : Config} (hc : c.Sized) {p : Tick × Tick} (h : tickDiff c p.1 p.2 < c.longTh)
    (f : FdState) : isLongPulse c (fallFd c p.1 f) p.2 = false := by
  rw [isLongPulse, edgeDiff, fallFd_lastHighTick, tickOf_sized hc]
  exact decide_eq_false (BitVec.not_le.2 h)

/-- A run of pulses has brought the block with parameters `c` here: its decoder has taken these bits, its latest
falling edge was at `high`, and it asked for the watchdog to be disabled exactly if the last bit is in. -/
structure State.HasTaken (c : Config) (high : Tick) (bits : List Bool) (s : State) : Prop where
  cfg : s.cfg = c
  high : s.fd.lastHighTick = high
  fd : s.fd.HasTaken bits
  wdDisable : s.rsp.wdDisable = decide (bits.length = 42)

/-- The state a pulse leaves with debounce off. -/
def afterPulse (p : Tick × Tick) (s : State) : State :=
  { s with
    fd := riseFd s.cfg p.2 (fallFd s.cfg p.1 s.fd)
    rsp := Response.passed (decide ((fallFd s.cfg p.1 s.fd).bitIndex.toInt = s.cfg.frameBits - 1)) }

/-- With debounce off a pulse is two events that reach the decoder. -/
theorem execAll_pulse_append {s : State} (hdb : s.cfg.dbEn = false) (p : Tick × Tick) (is : List Instr) :
    execAll (pulse p ++ is) s = execAll is (afterPulse p s) := by
  have hrise : exec (.rise p.2) { s with fd := fallFd s.cfg p.1 s.fd, rsp := Response.passed false } =
      .next (afterPulse p s) := runEvent_off _ _ _ hdb
  exact (execAll_cons_next _ (exec_fall_off p.1 hdb)).trans (execAll_cons_next _ hrise)

section
variable {c : Config} (hc : c.Sized) (hdb : c.dbEn = false)
include hc

/-- A pulse that is not long adds its bit to those its falling edge found. -/
theorem afterPulse_hasTaken {p : Tick × Tick} {bits : List Bool} {s : State} (hcfg : s.cfg = c)
    (hfall : (fallFd c p.1 s.fd).HasTaken bits) (hlen : bits.length < 42) (hshort : tickDiff c p.1 p.2 < c.longTh) :
    (afterPulse p s).HasTaken c p.1 (bits ++ [pulseBit c p]) := by
  subst hcfg
  refine ⟨rfl, ?_, ?_, ?_⟩
  · rw [afterPulse, riseFd_lastHighTick, fallFd_lastHighTick, tickOf_sized hc]
  · rw [← bitValue_fallFd hc p s.fd]
    exact riseFd_hasTaken hc hfall hlen (isLongPulse_fallFd hc hshort s.fd)
  · simp only [afterPulse, passed_wdDisable, hfall.bitIndex, sized_frameBits hc, List.length_append,
      List.length_singleton]
    exact decide_eq_decide.2 (by omega)

include hdb

/-- Pulses after the first, each within the frame and none long, add their bits one by one. -/
theorem execAll_pulses {pulses : List (Tick × Tick)} {q : Tick × Tick} {bits : List Bool} {s : State}
    (hs : s.HasTaken c q.1 bits) (hlen : bits.length + pulses.length ≤ 42)
    (hchain : List.IsChain (fun p q => tickDiff c p.1 q.1 ≤ c.fallTh) (q :: pulses))
    (hshort : ∀ p ∈ pulses, tickDiff c p.1 p.2 < c.longTh) :
    ∃ t high, execAll (pulses.flatMap pulse) s = .next t ∧ t.HasTaken c high (bits ++ pulses.map (pulseBit c)) := by
  induction pulses generalizing q bits s with
  | nil => exact ⟨s, q.1, rfl, by simpa using hs⟩
  | cons p pulses ih =>
    rw [List.isChain_cons_cons] at hchain
    rw [List.forall_mem_cons] at hshort
    rw [List.length_cons] at hlen
    have hwithin : isFrameStart c s.fd p.1 = false := by
      rw [isFrameStart, edgeDiff, hs.high]
      exact decide_eq_false (BitVec.not_lt.2 hchain.1)
    have hpulse := afterPulse_hasTaken hc hs.cfg (fallFd_hasTaken hs.fd hwithin) (by omega) hshort.1
    obtain ⟨t, high, hrun, ht⟩ := ih hpulse (by simp; omega) hchain.2 hshort.2
    refine ⟨t, high, ?_, by simpa using ht⟩
    rw [List.flatMap_cons, execAll_pulse_append (by rw [hs.cfg, hdb]), hrun]

/-- A whole run of at most 42 pulses, the first opened by a frame start, leaves exactly its bits taken. -/
theorem execAll_frame {p : Tick × Tick} {pulses : List (Tick × Tick)} {s : State} (hcfg : s.cfg = c)
    (hlen : (p :: pulses).length ≤ 42) (hstart : c.fallTh < tickDiff c s.fd.lastHighTick p.1)
    (hchain : List.IsChain (fun p q => tickDiff c p.1 q.1 ≤ c.fallTh) (p :: pulses))
    (hshort : ∀ q ∈ p :: pulses, tickDiff c q.1 q.2 < c.longTh) :
    ∃ t high, execAll ((p :: pulses).flatMap pulse) s = .next t ∧
      t.HasTaken c high ((p :: pulses).map (pulseBit c)) := by
  rw [List.forall_mem_cons] at hshort
  have hfirst := afterPulse_hasTaken hc hcfg (fallFd_hasTaken_nil hc (decide_eq_true hstart)) (by decide) hshort.1
  obtain ⟨t, high, hrun, ht⟩ := execAll_pulses hc hdb hfirst (by simpa [Nat.add_comm] using hlen) hchain hshort.2
  exact ⟨t, high, by rw [List.flatMap_cons, execAll_pulse_append (by rw [hcfg, hdb]), hrun], ht⟩

end

/-- READ with all 42 pulses in gives the two data bytes and the verdict on the third (R126). -/
theorem ofRead_of_hasTaken {c : Config} (hc : c.Sized) {bits : List Bool} {f : FdState} (hf : f.HasTaken bits)
    (hlen : bits.length = 42) :
    Response.ofRead c f = ⟨false, false, true,
      frameWord (if byteFrom 34 bits = (byteFrom 2 bits + byteFrom 18 bits) % 256 then .noError else .checksumMismatch)
        (BitVec.ofNat 16 (byteFrom 18 bits)) (BitVec.ofNat 16 (byteFrom 2 bits))⟩ := by
  obtain ⟨hb, hhum, htemp, -, herr⟩ := hf
  have hcomplete : ¬ f.bitIndex.toInt < 40 := by omega
  have hclass : classify c f = f.error := by
    rw [classify_sized hc, if_neg hcomplete, ite_eq_right_iff]
    exact Eq.symm
  have hverdict : verdict bits =
      if byteFrom 34 bits = (byteFrom 2 bits + byteFrom 18 bits) % 256 then .noError else .checksumMismatch := by
    simp [verdict, hlen]
  simp only [Response.ofRead, hclass, herr, hverdict, ← hhum, ← htemp, BitVec.ofNat_toNat, BitVec.setWidth_eq]

/-- Settles O29, by induction on the pulses: each adds its bit to those the decoder has taken. -/
theorem frameDecodes : Obligations.FrameDecodes := by
  intro s pulses hc hdb hlen hstart hchain hshort
  cases pulses with
  | nil => simp at hlen
  | cons p pulses =>
    obtain ⟨t, high, hrun, ht⟩ := execAll_frame hc hdb rfl hlen.le (hstart p rfl) hchain hshort
    have hbits : ((p :: pulses).map (pulseBit s.cfg)).length = 42 := by rw [List.length_map, hlen]
    refine ⟨t, hrun, ?_, ?_, ?_⟩
    · rw [ht.fd.bitIndex, hbits]
      rfl
    · rw [ht.wdDisable, hbits]
      rfl
    · rw [exec_read, ht.cfg, ofRead_of_hasTaken hc ht.fd hbits]
      simp only [List.drop_drop]
      rfl

end Sys2Proof.Machine
end

section
/-! PROOFS. The encoding: the decoder on canonical words, its agreement with the encoder, and the words the spec writes
out (R70 to R74, R79, R82 to R84). -/

namespace Sys2Proof

/-! Each operation code put before a tick is decoded to its row (R71, R72). -/

theorem decode_rise (t : Tick) : decode (.cmd (0b000#3 ++ t)) = .rise t := by
  rw [decode, decodeCmd_rise (opField_append _ t), tickField_append]
theorem decode_fall (t : Tick) : decode (.cmd (0b001#3 ++ t)) = .fall t := by
  rw [decode, decodeCmd_fall (opField_append _ t), tickField_append]
theorem decode_either (t : Tick) : decode (.cmd (0b010#3 ++ t)) = .either t := by
  rw [decode, decodeCmd_either (opField_append _ t), tickField_append]
theorem decode_reserved3 (t : Tick) : decode (.cmd (0b011#3 ++ t)) = .reserved3 :=
  decodeCmd_reserved3 (opField_append _ t)
theorem decode_read (t : Tick) : decode (.cmd (0b100#3 ++ t)) = .read :=
  decodeCmd_read (opField_append _ t)
theorem decode_reset (t : Tick) : decode (.cmd (0b101#3 ++ t)) = .reset :=
  decodeCmd_reset (opField_append _ t)
theorem decode_reserved6 (t : Tick) : decode (.cmd (0b110#3 ++ t)) = .reserved6 :=
  decodeCmd_reserved6 (opField_append _ t)
theorem decode_reserved7 (t : Tick) : decode (.cmd (0b111#3 ++ t)) = .reserved7 :=
  decodeCmd_reserved7 (opField_append _ t)

/-- A TD input is decoded to TDIFF of its two halves (R74). -/
theorem decode_td (earlier later : Tick) : decode (.td (earlier ++ later)) = .tdiff earlier later := by
  rw [decode, decodeTd, BitVec.extractLsb'_append_eq_left, BitVec.extractLsb'_append_eq_right]

/-- Every row is decoded from its canonical input (R84). -/
theorem decode_encode (i : Instr) : decode (encode i) = i := by
  cases i with
  | rise t => exact decode_rise t
  | fall t => exact decode_fall t
  | either t => exact decode_either t
  | read => exact decode_read 0
  | reset => exact decode_reset 0
  | reserved3 => exact decode_reserved3 0
  | reserved6 => exact decode_reserved6 0
  | reserved7 => exact decode_reserved7 0
  | tdiff earlier later => exact decode_td earlier later

/-- A TD input is the canonical one of the TDIFF it is decoded to: its two halves put together again. -/
theorem encode_decode_td (w : TdWord) : encode (decode (.td w)) = .td w := by
  have halves : w.extractLsb' 32 32 ++ w.extractLsb' 0 32 = w := by
    rw [BitVec.extractLsb'_append_extractLsb'_eq_extractLsb' (by decide), BitVec.extractLsb'_eq_self]
  exact congrArg PortInput.td halves

/-- An event command's word is the canonical one of its row. -/
theorem encode_decode_event {w : CmdWord} (h : opField w = 0b000#3 ∨ opField w = 0b001#3 ∨ opField w = 0b010#3) :
    encode (decode (.cmd w)) = .cmd w := by
  obtain h | h | h := h
  · rw [decode, decodeCmd_rise h, encode, ← h, opField_append_tickField]
  · rw [decode, decodeCmd_fall h, encode, ← h, opField_append_tickField]
  · rw [decode, decodeCmd_either h, encode, ← h, opField_append_tickField]

/-- The canonical word of any other command has its operation code, and 0 in the tick field (R79). -/
theorem encode_decode_noOperand {w : CmdWord}
    (h : ¬ (opField w = 0b000#3 ∨ opField w = 0b001#3 ∨ opField w = 0b010#3)) :
    encode (decode (.cmd w)) = .cmd (opField w ++ 0#32) := by
  obtain hop | hop | hop | hop | hop | hop | hop | hop := opField_cases w
  · exact absurd (.inl hop) h
  · exact absurd (.inr (.inl hop)) h
  · exact absurd (.inr (.inr hop)) h
  · rw [decode, decodeCmd_reserved3 hop, encode, hop]
  · rw [decode, decodeCmd_read hop, encode, hop]
  · rw [decode, decodeCmd_reset hop, encode, hop]
  · rw [decode, decodeCmd_reserved6 hop, encode, hop]
  · rw [decode, decodeCmd_reserved7 hop, encode, hop]

/-- Settles O1: the decoder inverts the encoder row by row, and the encoder the decoder by whether the operation code
has a tick operand. -/
theorem decodeEncodeAgree : Obligations.DecodeEncodeAgree := by
  refine ⟨decode_encode, encode_decode_td, fun w => ?_⟩
  split_ifs with h
  · exact encode_decode_event h
  · exact encode_decode_noOperand h

/-- Settles O2: each word is an operation code put before a tick, or two ticks put together. -/
theorem specWordsDecode : Obligations.SpecWordsDecode :=
  ⟨decode_rise 1000000, decode_fall 1018000, decode_either 0, decode_read 0xFFFFFFFF, decode_reset 0xDEADBEEF,
    decode_reserved3 0, decode_reserved6 0, decode_reserved7 0xFFFFFFFF, decode_td 4294967272 12,
    congrArg some (decode_fall 1018000), congrArg some (decode_td 4294967272 12)⟩

/-- Settles O3, code by code. -/
theorem opCodesSelectOperations : Obligations.OpCodesSelectOperations := fun t =>
  ⟨decode_rise t, decode_fall t, decode_either t, decode_reserved3 t, decode_read t, decode_reset t,
    decode_reserved6 t, decode_reserved7 t⟩

end Sys2Proof

namespace Sys2Proof.Machine

/-- The event an edge source's notification stands for (R73). -/
def EdgeKind.event (k : EdgeKind) (tick : Tick) : Instr :=
  match k with
  | .rising => .rise tick
  | .falling => .fall tick
  | .either => .either tick

/-- A notification is the canonical command of its event: `op[2]` 0 and the kind code are the operation code (R73). -/
theorem notification_eq_encode (k : EdgeKind) (tick : Tick) : notification k tick = encode (k.event tick) := by
  cases k <;> rfl

/-- A notification is decoded to its event (R73). -/
theorem decode_notification (k : EdgeKind) (tick : Tick) : decode (notification k tick) = k.event tick := by
  rw [notification_eq_encode, decode_encode]

/-- Settles O4: a notification is decoded by its kind, and the watchdog timeout is the one of kind `either`. -/
theorem notificationBecomesEvent : Obligations.NotificationBecomesEvent :=
  ⟨fun tick => ⟨decode_notification .rising tick, decode_notification .falling tick, decode_notification .either tick⟩,
    fun _ _ => rfl, congrArg (fun i => [i]) (decode_notification .either 0).symm⟩

/-- Settles O38: the commands of each pseudo-instruction, encoded one by one. -/
theorem pseudoInstructionsExpand : Obligations.PseudoInstructionsExpand := ⟨rfl, rfl, rfl, rfl, rfl⟩

/-- A step that takes a word of READ executes READ, whatever the tick field (R79). -/
theorem step_read (s : State) (rest : List PortInput) (t : Tick) :
    step { s with stream := .cmd (0b100#3 ++ t) :: rest } = exec .read { s with stream := rest } := by
  rw [step_of_stream_cons rfl, decode_read]

/-- A step that takes a word of RESET executes RESET, whatever the tick field (R79). -/
theorem step_reset (s : State) (rest : List PortInput) (t : Tick) :
    step { s with stream := .cmd (0b101#3 ++ t) :: rest } = exec .reset { s with stream := rest } := by
  rw [step_of_stream_cons rfl, decode_reset]

/-- Settles O5: the step's outcome is that of READ or RESET, which carry no tick. -/
theorem ignoredTickHasNoEffect : Obligations.IgnoredTickHasNoEffect :=
  ⟨fun s rest t u => ⟨(step_read s rest t).trans (step_read s rest u).symm,
    (step_reset s rest t).trans (step_reset s rest u).symm⟩, rfl, rfl⟩

/-- A command word with a reserved operation code is decoded to a reserved row, which every state refuses (R78). -/
theorem exec_decode_reserved {w : CmdWord} (h : opField w = 0b011#3 ∨ opField w = 0b110#3 ∨ opField w = 0b111#3)
    (s : State) : exec (decode (.cmd w)) s = .refused .reservedOp := by
  rw [decode]
  obtain h | h | h := h
  · rw [decodeCmd_reserved3 h]; rfl
  · rw [decodeCmd_reserved6 h]; rfl
  · rw [decodeCmd_reserved7 h]; rfl

/-- Settles O22: the reserved rows by their meaning, and a reserved word by the row it is decoded to. -/
theorem reservedIsRefused : Obligations.ReservedIsRefused := by
  refine fun s => ⟨rfl, rfl, rfl, fun w rest h => ?_⟩
  rw [step_of_stream_cons rfl, exec_decode_reserved h]

/-- tick_diff is the difference of the two ticks as integers, modulo 2^32 (R100). -/
theorem tickDiff_toNat_eq_emod {c : Config} (h : c.Sized) (earlier later : Tick) :
    ((tickDiff c earlier later).toNat : Int) = ((later.toNat : Int) - earlier.toNat) % 2 ^ 32 := by
  have := earlier.isLt
  rw [tickDiff_toNat h]
  omega

/-- Settles O7: TDIFF writes `TD_OUT` alone, with tick_diff. -/
theorem tdiffResult : Obligations.TdiffResult := fun earlier later s h =>
  ⟨decode_td earlier later, _, exec_tdiff earlier later s, tickDiff_toNat_eq_emod h earlier later⟩

end Sys2Proof.Machine
end

section
/-! PROOFS. The response: the fields of the frame word and the response word (R75, R76), what each operation drives
(R75, R126), and the error code it never drives (R80). -/

namespace Sys2Proof.Machine

/-! The fields of the frame word (R76). -/

@[simp] theorem frameWord_error (e : ErrorKind) (temperature humidity : Accum) :
    (frameWord e temperature humidity).extractLsb' 32 2 = errorCode e := by
  rw [frameWord, BitVec.extractLsb'_append_eq_of_le (by decide)]
  exact BitVec.extractLsb'_append_eq_left
@[simp] theorem frameWord_temperature (e : ErrorKind) (temperature humidity : Accum) :
    (frameWord e temperature humidity).extractLsb' 16 16 = temperature := by
  rw [frameWord, BitVec.extractLsb'_append_eq_of_le (by decide)]
  exact BitVec.extractLsb'_append_eq_right
@[simp] theorem frameWord_humidity (e : ErrorKind) (temperature humidity : Accum) :
    (frameWord e temperature humidity).extractLsb' 0 16 = humidity :=
  BitVec.extractLsb'_append_eq_right

/-- The code of the classification, test by test (R77, R126). -/
theorem errorCode_classify {c : Config} (h : c.Sized) (f : FdState) :
    errorCode (classify c f) =
      if f.error = .checksumMismatch then 0b10 else if f.bitIndex.toInt < 40 then 0b01 else errorCode f.error := by
  rw [classify_sized h, apply_ite errorCode, apply_ite errorCode]
  rfl

/-- Settles O17: READ answers with its frame word, field by field. -/
theorem readRule : Obligations.ReadRule := by
  refine fun tick s h => ⟨decode_read tick, _, exec_read s, ?_, frameWord_temperature _ _ _, frameWord_humidity _ _ _⟩
  rw [frameWord_error, errorCode_classify h]
  rfl

/-- The three flags of the response word, bit by bit from the top. -/
theorem flags_getLsbD : ∀ dbPass wdDisable frameValid : Bool,
    let flags := BitVec.ofBool dbPass ++ BitVec.ofBool wdDisable ++ BitVec.ofBool frameValid
    flags.getLsbD 2 = dbPass ∧ flags.getLsbD 1 = wdDisable ∧ flags.getLsbD 0 = frameValid := by decide

/-- Above the frame word the response word holds its three flags (R75). -/
theorem rspWord_getLsbD_flags (r : Response) (i : Nat) :
    (rspWord r).getLsbD (34 + i) =
      (BitVec.ofBool r.dbPass ++ BitVec.ofBool r.wdDisable ++ BitVec.ofBool r.frameValid).getLsbD i := by
  refine BitVec.getLsbD_append.trans ?_
  rw [if_neg (by omega), Nat.add_sub_cancel_left]

/-- The layout of the response word (R75). -/
theorem rspWord_layout (r : Response) :
    (rspWord r).getLsbD 36 = r.dbPass ∧ (rspWord r).getLsbD 35 = r.wdDisable ∧
      (rspWord r).getLsbD 34 = r.frameValid ∧ (rspWord r).extractLsb' 0 34 = r.frame := by
  obtain ⟨hpass, hwd, hvalid⟩ := flags_getLsbD r.dbPass r.wdDisable r.frameValid
  exact ⟨(rspWord_getLsbD_flags r 2).trans hpass, (rspWord_getLsbD_flags r 1).trans hwd,
    (rspWord_getLsbD_flags r 0).trans hvalid, BitVec.extractLsb'_append_eq_right⟩

/-- The response word in which nothing is driven is all 0. -/
theorem rspWord_undriven : rspWord Response.undriven = 0 := by decide

/-- What an event drives: `db_pass` is DB_STAGE's verdict, `wd_disable` its request if it passes, and there is no
frame (R75, R104). -/
theorem runEvent_rsp (tick : Tick) (fd' : FdState) (wd : Bool) (s : State) :
    ∃ t, runEvent tick fd' wd s = .next t ∧
      t.rsp = ⟨dbPasses s.cfg s.db tick, dbPasses s.cfg s.db tick && wd, false, 0⟩ := by
  cases hp : dbPasses s.cfg s.db tick with
  | true => exact ⟨_, runEvent_pass _ _ hp, rfl⟩
  | false => exact ⟨_, runEvent_filtered _ _ hp, rfl⟩

/-- The events that ask for the watchdog to be disabled: EITHER, and the RISE that takes the last bit (R75). -/
def asksWdDisable (i : Instr) (s : State) : Bool :=
  match i with
  | .rise _ => decide (s.fd.bitIndex.toInt = 39)
  | .either _ => true
  | .fall _ | .read | .reset | .reserved3 | .reserved6 | .reserved7 | .tdiff _ _ => false

/-- An event command is DB_STAGE and then a write of the decoder, with its watchdog request (R120). -/
theorem exec_event_wdDisable {i : Instr} {tick : Tick} {s : State} (hc : s.cfg.Sized) (hi : isEventAt i tick) :
    ∃ fd', exec i s = runEvent tick fd' (asksWdDisable i s) s := by
  obtain rfl | rfl | rfl := hi
  · exact ⟨riseFd s.cfg tick s.fd, by rw [exec, execRise, sized_frameBits hc]; rfl⟩
  · exact ⟨_, rfl⟩
  · exact ⟨_, rfl⟩

/-- The watchdog request of an event in the words of R75. -/
theorem asksWdDisable_iff {i : Instr} {tick : Tick} {s : State} (hi : isEventAt i tick) :
    asksWdDisable i s = true ↔ i = .either tick ∨ (i = .rise tick ∧ s.fd.bitIndex.toInt = 39) := by
  obtain rfl | rfl | rfl := hi <;> simp [asksWdDisable]

/-- Settles O34: the layout field by field, an event by DB_STAGE's verdict and its watchdog request, READ and RESET by
their meaning. -/
theorem responseFields : Obligations.ResponseFields := by
  refine ⟨rspWord_layout, fun i tick s hc hi => ?_, fun s => ⟨_, exec_read s, rfl, rfl, rfl, rfl⟩,
    fun s => ⟨_, rfl, rspWord_undriven⟩⟩
  obtain ⟨fd', hexec⟩ := exec_event_wdDisable hc hi
  obtain ⟨t, ht, hrsp⟩ := runEvent_rsp tick fd' (asksWdDisable i s) s
  refine ⟨t, hexec.trans ht, by rw [hrsp], by rw [hrsp], by rw [hrsp], ?_⟩
  rw [hrsp, Bool.and_eq_true, asksWdDisable_iff hi]

/-- No error kind has the reserved code (R77, R80). -/
theorem errorCode_ne_reserved (e : ErrorKind) : errorCode e ≠ 0b11 := by cases e <;> decide

/-- What an operation leaves in the response: the one before (TDIFF), one without a frame word, or READ's. -/
theorem exec_rsp_cases {i : Instr} {s t : State} (h : exec i s = .next t) :
    t.rsp = s.rsp ∨ t.rsp.frame = 0 ∨ t.rsp = Response.ofRead s.cfg s.fd := by
  cases i with
  | rise | fall | either => obtain ⟨-, rfl⟩ | ⟨-, rfl⟩ := runEvent_cases h <;> exact .inr (.inl rfl)
  | read => cases h; exact .inr (.inr rfl)
  | reset => cases h; exact .inr (.inl rfl)
  | tdiff => cases h; exact .inl rfl
  | reserved3 | reserved6 | reserved7 => cases h

/-- No operation is the first to drive the reserved error code. -/
theorem exec_errorField_ne_reserved {i : Instr} {s t : State} (hs : s.rsp.frame.extractLsb' 32 2 ≠ 0b11)
    (h : exec i s = .next t) : t.rsp.frame.extractLsb' 32 2 ≠ 0b11 := by
  obtain hrsp | hrsp | hrsp := exec_rsp_cases h <;> rw [hrsp]
  · exact hs
  · decide
  · rw [Response.ofRead, frameWord_error]
    exact errorCode_ne_reserved _

/-- Settles O35: a step holds the state or executes an operation, whose start has the response of the state. -/
theorem reservedErrorCodeNeverDriven : Obligations.ReservedErrorCodeNeverDriven := by
  refine ⟨by decide, fun s t hs h => ?_⟩
  obtain ⟨-, rfl⟩ | ⟨p, rest, -, hexec⟩ := step_cases h
  · exact hs
  · exact exec_errorField_ne_reserved (s := { s with stream := rest }) hs hexec

end Sys2Proof.Machine
end

section
/-! PROOFS. Tick arithmetic (R100, R103) and the debounce stage (R104 to R108, R208): the elapsed time as tick_diff, the
verdict it gives, and what an event does when the stage filters it or stands aside. -/

namespace Sys2Proof.Machine

/-! Moving all ticks on together: every reading of a tick is a difference of two, so it stays the same. -/

/-- The decoder `k` ticks later. -/
def FdState.shift (k : Tick) (f : FdState) : FdState := { f with lastHighTick := f.lastHighTick + k }

/-- The debounce stage `k` ticks later. -/
def DbState.shift (k : Tick) (d : DbState) : DbState := { d with lastAcceptedTick := d.lastAcceptedTick + k }

/-- The block `k` ticks later is its two units `k` ticks later. -/
theorem shiftState_eq (k : Tick) (s : State) : shiftState k s = { s with fd := s.fd.shift k, db := s.db.shift k } := rfl

/-- The time since the latest falling edge does not depend on where the counter started (R121). -/
theorem edgeDiff_shift {c : Config} (h : c.Sized) (k tick : Tick) (f : FdState) :
    edgeDiff c (f.shift k) (tick + k) = edgeDiff c f tick := tickDiff_add h f.lastHighTick tick k

theorem fallFd_shift {c : Config} (h : c.Sized) (k tick : Tick) (f : FdState) :
    fallFd c (tick + k) (f.shift k) = (fallFd c tick f).shift k := by
  have hstart : isFrameStart c (f.shift k) (tick + k) = isFrameStart c f tick := by
    rw [isFrameStart, edgeDiff_shift h, isFrameStart]
  unfold fallFd
  rw [hstart, tickOf_sized h, tickOf_sized h]
  split <;> rfl

theorem forceChecksum_shift {c : Config} (h : c.Sized) (k tick : Tick) (f : FdState) :
    forceChecksum c (tick + k) (f.shift k) = (forceChecksum c tick f).shift k := by
  have hlong : isLongPulse c (f.shift k) (tick + k) = isLongPulse c f tick := by
    rw [isLongPulse, edgeDiff_shift h, isLongPulse]
  unfold forceChecksum
  rw [hlong]
  split <;> rfl

theorem judgeChecksum_shift (k : Tick) (f : FdState) : judgeChecksum (f.shift k) = (judgeChecksum f).shift k := by
  have hok : chkOk (f.shift k) = chkOk f := rfl
  unfold judgeChecksum
  rw [hok]
  split <;> rfl

/-- The dispatch looks at no tick. -/
theorem takeBit_shift (c : Config) (bv : Bool) (k : Tick) (f : FdState) :
    takeBit c bv (f.shift k) = (takeBit c bv f).shift k := by
  have hindex : (f.shift k).bitIndex = f.bitIndex := rfl
  unfold takeBit
  rw [hindex]
  split_ifs
  · exact judgeChecksum_shift k { f with checksumAccum := shiftIn c.chkBits f.checksumAccum bv }
  all_goals rfl

theorem dispatchBit_shift (c : Config) (bv : Bool) (k : Tick) (f : FdState) :
    dispatchBit c bv (f.shift k) = (dispatchBit c bv f).shift k := by
  have hindex : (f.shift k).bitIndex = f.bitIndex := rfl
  unfold dispatchBit
  rw [hindex, takeBit_shift]
  split <;> rfl

theorem riseFd_shift {c : Config} (h : c.Sized) (k tick : Tick) (f : FdState) :
    riseFd c (tick + k) (f.shift k) = (riseFd c tick f).shift k := by
  have hbit : bitValue c (f.shift k) (tick + k) = bitValue c f tick := by
    rw [bitValue, edgeDiff_shift h, bitValue]
  rw [riseFd, hbit, forceChecksum_shift h, dispatchBit_shift, riseFd]

/-! The elapsed time of the debounce stage, and its verdict. -/

/-- With `DB_MAX_TICK` = 2^32 the elapsed time is tick_diff (R103). -/
theorem dbElapsed_pow32 {c : Config} (h : c.Sized) (hmax : c.dbMaxTick = .pow32) (last tick : Tick) :
    dbElapsed c last tick = (tickDiff c last tick).toNat := by
  have := last.isLt
  have := tick.isLt
  rw [dbElapsed_sized h, tickDiff_toNat h, hmax, dbMaxTickValue]
  simp only [BitVec.lt_def]
  split <;> omega

/-- With `DB_MAX_TICK` = 2^32 - 1 it is one tick less when the counter has wrapped (90_conflicts.md C2). -/
theorem dbElapsed_pow32LessOne {c : Config} (h : c.Sized) (hmax : c.dbMaxTick = .pow32LessOne) (last tick : Tick) :
    dbElapsed c last tick + (if tick < last then 1 else 0) = (tickDiff c last tick).toNat := by
  have := last.isLt
  have := tick.isLt
  rw [dbElapsed_sized h, tickDiff_toNat h, hmax, dbMaxTickValue]
  simp only [BitVec.lt_def]
  split <;> omega

/-- Settles O10: tick_diff reads no control register, so each wrap offset has its own lemma. -/
theorem elapsedIsTickDiff : Obligations.ElapsedIsTickDiff := fun c last tick h =>
  ⟨dbElapsed_pow32 (c := { c with dbMaxTick := .pow32 }) h rfl last tick,
    dbElapsed_pow32LessOne (c := { c with dbMaxTick := .pow32LessOne }) h rfl last tick⟩

/-- The elapsed time as a mathematical integer (R103, R111): the last tick is at most `DB_MAX_TICK`. -/
theorem dbElapsed_cast {c : Config} (h : c.Sized) (last tick : Tick) :
    (dbElapsed c last tick : Int) =
      if tick.toNat < last.toNat then (dbMaxTickValue c.dbMaxTick : Int) - last.toNat + tick.toNat
      else (tick.toNat : Int) - last.toNat := by
  have := last.isLt
  have hmax : 2 ^ 32 - 1 ≤ dbMaxTickValue c.dbMaxTick := by cases c.dbMaxTick <;> decide
  rw [dbElapsed_sized h]
  simp only [BitVec.lt_def]
  split <;> omega

/-- The enabled stage filters the events that come within `DB_TH` (R104, R108). -/
theorem dbPasses_eq_false_iff {c : Config} (d : DbState) (tick : Tick) (h : c.dbEn = true) :
    dbPasses c d tick = false ↔ dbElapsed c d.lastAcceptedTick tick ≤ c.dbTh.toNat := by
  rw [← Bool.not_eq_true, dbPasses_on d tick h, Nat.not_lt]

/-- With `DB_MAX_TICK` = 2^32 the verdict of the enabled stage compares tick_diff with `DB_TH`. -/
theorem dbPasses_pow32 {c : Config} (h : c.Sized) (hon : c.dbEn = true) (hmax : c.dbMaxTick = .pow32) (d : DbState)
    (tick : Tick) : dbPasses c d tick = decide (c.dbTh < tick - d.lastAcceptedTick) := by
  rw [Bool.eq_iff_iff, dbPasses_on d tick hon, dbElapsed_pow32 h hmax, tickDiff_sized h, decide_eq_true_iff,
    BitVec.lt_def]

/-- Settles O11: each corner case is the comparison of tick_diff with `DB_TH`; the wrap case is the elapsed time as R103
writes it. -/
theorem debounceCorners : Obligations.DebounceCorners := by
  intro c d tick h hon hmax
  have verdict := dbPasses_pow32 h hon hmax d
  refine ⟨?atThreshold, fun hth => ?oneMore, ?sameTick, fun hlt => ?wrapped, ?afterReset, fun hth => ?largest⟩
  case atThreshold => simp [verdict, BitVec.add_comm _ c.dbTh]
  case oneMore =>
    rw [verdict, decide_eq_true_iff]
    bv_omega
  case sameTick => simp [verdict]
  case wrapped => rw [dbPasses_on d tick hon, dbElapsed_sized h, if_pos hlt, hmax]; rfl
  case afterReset => simp [dbPasses_pow32 h hon hmax]
  case largest =>
    rw [verdict, hth, decide_eq_false_iff_not]
    bv_omega

theorem dbPasses_shift {c : Config} (h : c.Sized) (hmax : c.dbMaxTick = .pow32) (k tick : Tick) (d : DbState) :
    dbPasses c (d.shift k) (tick + k) = dbPasses c d tick := by
  have helapsed : dbElapsed c (d.shift k).lastAcceptedTick (tick + k) = dbElapsed c d.lastAcceptedTick tick := by
    rw [dbElapsed_pow32 h hmax, dbElapsed_pow32 h hmax, DbState.shift, tickDiff_add h]
  rw [dbPasses, helapsed, dbPasses]

theorem dbAccept_shift {c : Config} (h : c.Sized) (k tick : Tick) (d : DbState) :
    dbAccept c (d.shift k) (tick + k) = (dbAccept c d tick).shift k := by
  unfold dbAccept
  rw [tickOf_sized h, tickOf_sized h]
  split <;> rfl

/-- An event `k` ticks later on the block `k` ticks later does the same `k` ticks later. -/
theorem runEvent_shift {s : State} (h : s.cfg.Sized) (hmax : s.cfg.dbMaxTick = .pow32) {k : Tick}
    {fd' fdLater : FdState} (tick : Tick) (wd : Bool) (hfd : fdLater = fd'.shift k) :
    runEvent (tick + k) fdLater wd (shiftState k s) = mapNext (shiftState k) (runEvent tick fd' wd s) := by
  simp only [hfd, runEvent, shiftState_eq, dbPasses_shift h hmax, dbAccept_shift h]
  split <;> rfl

/-- Settles O33, operation by operation: an event by what it writes into the decoder, TDIFF by tick_diff; the others
look at no tick. -/
theorem onlyTickDifferencesCount : Obligations.OnlyTickDifferencesCount := by
  intro k i s h hmax hne
  cases i with
  | rise tick => exact runEvent_shift h hmax tick _ (riseFd_shift h k tick s.fd)
  | fall tick => exact runEvent_shift h hmax tick false (fallFd_shift h k tick s.fd)
  | either tick => exact runEvent_shift h hmax tick true rfl
  | tdiff earlier later =>
    rw [shiftInstr, exec_tdiff, shiftState_cfg, tickDiff_add h]
    rfl
  | reset => exact absurd rfl hne
  | read | reserved3 | reserved6 | reserved7 => rfl

/-! An event under the stage: bypassed, passed or filtered. -/

/-- A filtered event changes the response alone (R106). -/
theorem exec_event_filtered {i : Instr} {tick : Tick} {s : State} (hi : isEventAt i tick)
    (h : dbPasses s.cfg s.db tick = false) : exec i s = .next { s with rsp := Response.filtered } := by
  obtain ⟨fd', wd, hexec⟩ := exec_event hi s
  rw [hexec, runEvent_filtered fd' wd h]

/-- The block with its debounce stage bypassed (R102). -/
def State.bypassed (s : State) : State := { s with cfg := { s.cfg with dbEn := false } }

theorem bypassed_of_off {s : State} (h : s.cfg.dbEn = false) : s.bypassed = s := by
  rw [State.bypassed, ← h]

/-- An event writes the decoder and asks for the watchdog as it does with the stage bypassed: neither reads `DB_EN`. -/
theorem exec_event_bypassed {i : Instr} {tick : Tick} (hi : isEventAt i tick) (s : State) :
    ∃ fd' wd, exec i s = runEvent tick fd' wd s ∧
      exec i s.bypassed = .next { s.bypassed with fd := fd', rsp := Response.passed wd } := by
  obtain rfl | rfl | rfl := hi <;> exact ⟨_, _, rfl, runEvent_off (s := s.bypassed) _ _ _ rfl⟩

/-- With the stage enabled the elapsed time decides between the event as with the stage bypassed, its tick recorded, and
a response that drives nothing (R104 to R106). -/
theorem exec_event_enabled {i : Instr} {tick : Tick} {s : State} (h : s.cfg.Sized) (hon : s.cfg.dbEn = true)
    (hi : isEventAt i tick) :
    ∃ fd' wd, exec i s.bypassed = .next { s.bypassed with fd := fd', rsp := Response.passed wd } ∧
      exec i s = .next (if s.cfg.dbTh.toNat < dbElapsed s.cfg s.db.lastAcceptedTick tick then
          { s with fd := fd', db := ⟨tick⟩, rsp := Response.passed wd }
        else { s with rsp := Response.filtered }) := by
  obtain ⟨fd', wd, hexec, hbypassed⟩ := exec_event_bypassed hi s
  refine ⟨fd', wd, hbypassed, ?_⟩
  split
  · rw [hexec, runEvent_pass fd' wd ((dbPasses_on s.db tick hon).2 ‹_›), dbAccept_on s.db tick hon, tickOf_sized h]
  · exact exec_event_filtered hi ((dbPasses_eq_false_iff s.db tick hon).2 (Nat.not_lt.1 ‹_›))

/-- Settles O9: the event with the stage bypassed gives the decoder and the response, and the elapsed time, as the
integer R103 writes, decides what becomes of them. -/
theorem debounceStage : Obligations.DebounceStage := by
  intro i tick s h hi
  by_cases hoff : s.cfg.dbEn = false
  · obtain ⟨fd', wd, -, hbypassed⟩ := exec_event_bypassed hi s
    have hexec := hbypassed
    rw [bypassed_of_off hoff] at hexec
    exact ⟨_, _, hexec, hbypassed, rfl, rfl, by simp only [hoff, if_true, bypassed_of_off hoff]⟩
  · obtain ⟨fd', wd, hbypassed, hexec⟩ := exec_event_enabled h (by simpa using hoff) hi
    refine ⟨_, _, hexec, hbypassed, rfl, rfl, ?_⟩
    intro last maxTick elapsed
    have hmax : maxTick = dbMaxTickValue s.cfg.dbMaxTick := by
      simp only [maxTick]
      cases s.cfg.dbMaxTick <;> rfl
    have helapsed : elapsed = dbElapsed s.cfg s.db.lastAcceptedTick tick := by
      rw [dbElapsed_cast h, ← hmax]
    rw [if_neg hoff, helapsed]
    simp only [Int.ofNat_lt]
    split <;> rfl

/-- Settles O12: with a last tick above 0, tick 0 comes after a wrap, and EITHER writes nothing of the decoder. -/
theorem watchdogUnderDebounce : Obligations.WatchdogUnderDebounce := by
  intro s h hon hpos
  have helapsed : dbElapsed s.cfg s.db.lastAcceptedTick 0 =
      dbMaxTickValue s.cfg.dbMaxTick - s.db.lastAcceptedTick.toNat := by
    rw [dbElapsed_sized h, if_pos (by simpa [BitVec.lt_def] using hpos)]
    rfl
  rw [← helapsed]
  split
  · have hpass : dbPasses s.cfg s.db 0 = true := (dbPasses_on s.db 0 hon).2 ‹_›
    refine (runEvent_pass s.fd true hpass).trans ?_
    rw [dbAccept_on _ _ hon, tickOf_sized h]
    rfl
  · exact exec_event_filtered (.inr (.inr rfl)) ((dbPasses_eq_false_iff s.db 0 hon).2 (Nat.not_lt.1 ‹_›))

/-- Settles O13: the first event is filtered, and leaves the stage's reference for the next ones. -/
theorem debounceHoldsOffCloseEvents : Obligations.DebounceHoldsOffCloseEvents := by
  intro is s hon hclose
  induction is generalizing s with
  | nil => exact ⟨s, rfl, rfl, rfl⟩
  | cons i is ih =>
    obtain ⟨tick, hi, hle⟩ := hclose i List.mem_cons_self
    have hexec := exec_event_filtered hi ((dbPasses_eq_false_iff s.db tick hon).2 hle)
    rw [execAll_cons_next is hexec]
    exact ih { s with rsp := Response.filtered } hon fun j hj => hclose j (List.mem_cons_of_mem i hj)

end Sys2Proof.Machine
end

section
/-! PROOFS. The edge events as the decoder takes them (R121 to R125): what FALL, RISE and EITHER write once DB_STAGE has
passed them, and when a checksum mismatch is recorded. -/

namespace Sys2Proof.Machine

/-- The interval an edge event measures, in natural numbers (R100, R121). -/
theorem edgeDiff_toNat {c : Config} (h : c.Sized) (f : FdState) (tick : Tick) :
    (edgeDiff c f tick).toNat = (tick.toNat + 2 ^ 32 - f.lastHighTick.toNat) % 2 ^ 32 :=
  tickDiff_toNat h f.lastHighTick tick

/-- A falling edge starts a frame when its interval exceeds `FALL_TH`, strictly (R122). -/
theorem isFrameStart_iff {c : Config} (h : c.Sized) (f : FdState) (tick : Tick) :
    isFrameStart c f tick = true ↔ c.fallTh.toNat < (tick.toNat + 2 ^ 32 - f.lastHighTick.toNat) % 2 ^ 32 := by
  rw [isFrameStart, decide_eq_true_iff, BitVec.lt_def, edgeDiff_toNat h]

/-- A rising edge reads as 1 when its interval is at least `BIT1_TH` (R123). -/
theorem bitValue_toNat_sized {c : Config} (h : c.Sized) (f : FdState) (tick : Tick) :
    (bitValue c f tick).toNat =
      if c.bit1Th.toNat ≤ (tick.toNat + 2 ^ 32 - f.lastHighTick.toNat) % 2 ^ 32 then 1 else 0 := by
  simp only [bitValue_toNat, BitVec.le_def, tickDiff_toNat h]

/-- What the long-pulse force leaves in the checksum accumulator, in natural numbers (R123). -/
theorem forceChecksum_toNat_sized {c : Config} (h : c.Sized) (f : FdState) (tick : Tick) :
    (forceChecksum c tick f).checksumAccum.toNat =
      if c.longTh.toNat ≤ (tick.toNat + 2 ^ 32 - f.lastHighTick.toNat) % 2 ^ 32 then c.chkSentinel.toNat
      else f.checksumAccum.toNat := by
  simp only [forceChecksum_tickDiff h, apply_ite BitVec.toNat, BitVec.le_def, tickDiff_toNat h]

/-- A falling edge that starts no frame writes `last_high_tick` alone (R122). -/
theorem fallFd_within {c : Config} {tick : Tick} {f : FdState} (h : isFrameStart c f tick = false) :
    fallFd c tick f = { f with lastHighTick := tickOf c tick } := by
  simp [fallFd, h]

/-- The decoder's part of FALL with the sizes of R5 (R122). -/
theorem fallFd_sized {c : Config} (h : c.Sized) (tick : Tick) (f : FdState) :
    fallFd c tick f =
      if c.fallTh.toNat < (tick.toNat + 2 ^ 32 - f.lastHighTick.toNat) % 2 ^ 32 then
        { bitIndex := BitVec.ofInt 8 (-2), checksumAccum := 0, temperatureAccum := 0, humidityAccum := 0,
          lastHighTick := tick, error := .noError }
      else { f with lastHighTick := tick } := by
  simp only [fallFd, startFrame, isFrameStart_iff h, tickOf_sized h, sized_preframe h]
  rfl

/-- Settles O14: the event passes, and the decoder's part of FALL is written out for the sizes of R5. -/
theorem fallRule : Obligations.FallRule := by
  intro tick s hc hp
  refine ⟨decode_fall tick, (runEvent_pass _ _ hp).trans ?_⟩
  rw [fallFd_sized hc]
  rfl

/-- The position after a rising edge, as an integer (R123). -/
theorem riseFd_bitIndex_toInt {c : Config} (hc : c.Sized) (tick : Tick) (f : FdState) :
    (riseFd c tick f).bitIndex.toInt = if 40 ≤ f.bitIndex.toInt then 40 else f.bitIndex.toInt + 1 := by
  rw [riseFd, dispatchBit_bitIndex_toInt hc, forceChecksum_bitIndex]

/-- RISE once DB_STAGE has passed it: the decoder takes the edge, and the 40th bit asks for the watchdog to be disabled
(R123). -/
theorem exec_rise_pass {tick : Tick} {s : State} (hc : s.cfg.Sized) (hp : dbPasses s.cfg s.db tick = true) :
    exec (.rise tick) s = .next { s with
      fd := riseFd s.cfg tick s.fd, db := dbAccept s.cfg s.db tick,
      rsp := Response.passed (decide (s.fd.bitIndex.toInt = 39)) } := by
  rw [exec, execRise, sized_frameBits hc]
  exact runEvent_pass _ _ hp

/-- Settles O15, field by field: each window of positions is a phase, and the bit and the force are read off the
interval. -/
theorem riseRule : Obligations.RiseRule := by
  intro tick s hc hp
  refine ⟨decode_rise tick, ?_⟩
  intro diff bv chk b hum temp
  have hbv : (bitValue s.cfg s.fd tick).toNat = bv := bitValue_toNat_sized hc s.fd tick
  have hchk : (forceChecksum s.cfg tick s.fd).checksumAccum.toNat = chk := forceChecksum_toNat_sized hc s.fd tick
  refine ⟨riseFd s.cfg tick s.fd, exec_rise_pass hc hp, riseFd_lastHighTick _ _ _, riseFd_bitIndex_toInt hc tick s.fd,
    ?_, ?_, ?_, riseFd_error hc tick s.fd⟩
  · simp only [riseFd_humidityAccum_toNat hc, phaseOf_receivingHumidity, hbv, b, hum]
  · simp only [riseFd_temperatureAccum_toNat hc, phaseOf_receivingTemperature, hbv, b, temp]
  · simp only [riseFd_checksumAccum_toNat hc, phaseOf_receivingChecksum hc, hbv, hchk, b]

/-- Settles O16: the event passes, and its write of the decoder is the decoder as it was. -/
theorem eitherRule : Obligations.EitherRule := fun tick s hp => ⟨decode_either tick, runEvent_pass s.fd true hp⟩

/-- FALL clears the stored error at a frame start, and else keeps it (R122). -/
theorem fallFd_error (c : Config) (tick : Tick) (f : FdState) :
    (fallFd c tick f).error = if isFrameStart c f tick then .noError else f.error := by
  unfold fallFd
  split <;> rfl

/-- A mismatch stored after a rising edge was stored before it, or is judged by the 40th bit (R123, R125). -/
theorem riseFd_error_mismatch {c : Config} (hc : c.Sized) {tick : Tick} {f : FdState}
    (h : (riseFd c tick f).error = .checksumMismatch) : f.error = .checksumMismatch ∨ f.bitIndex.toInt = 39 := by
  rw [riseFd, dispatchBit_sized hc] at h
  simpa using takeBit_error_mismatch hc h

/-- A mismatch is recorded by the RISE that takes the 40th bit, and by nothing else (R125). -/
theorem exec_records_mismatch {i : Instr} {s t : State} (hc : s.cfg.Sized) (h : exec i s = .next t)
    (hs : s.fd.error ≠ .checksumMismatch) (ht : t.fd.error = .checksumMismatch) :
    s.fd.bitIndex.toInt = 39 ∧ ∃ tick, i = .rise tick := by
  obtain ⟨hf, -⟩ | ⟨-, hf, -⟩ | ⟨tick, -, ⟨hi, hf⟩ | ⟨-, hf⟩ | ⟨-, hf⟩⟩ := exec_cases h <;> rw [hf] at ht
  · exact absurd ht hs
  · cases ht
  · exact ⟨(riseFd_error_mismatch hc ht).resolve_left hs, tick, hi⟩
  · rw [fallFd_error] at ht
    split at ht
    · cases ht
    · exact absurd ht hs
  · exact absurd ht hs

/-- A byte sum has 8 bits, so an accumulator of 256 or more never matches it (R125). -/
theorem chkOk_eq_false {f : FdState} (h : 256 ≤ f.checksumAccum.toNat) : chkOk f = false := by
  rw [← Bool.not_eq_true, chkOk_iff]
  omega

/-- Settles O36, clause by clause. -/
theorem checksumComparison : Obligations.ChecksumComparison :=
  ⟨chkOk_iff, fun _ => chkOk_eq_false, fun _ _ _ => exec_records_mismatch⟩

end Sys2Proof.Machine
end

section
/-! PROOFS. Runs that stay within one frame: what their operations can do, the mismatch a long pulse forces (R127), and
the completed frame they keep (R207). -/

namespace Sys2Proof.Machine

/-- Within a frame an operation keeps the decoder, or is a rising edge it takes, or moves `last_high_tick` alone. -/
theorem exec_within_cases {i : Instr} {s t : State} (hi : beginsFrame i s = false) (h : exec i s = .next t) :
    t.fd = s.fd ∨ ∃ tick, t.fd = riseFd s.cfg tick s.fd ∨ t.fd = { s.fd with lastHighTick := tickOf s.cfg tick } := by
  obtain ⟨hf, -⟩ | ⟨rfl, -⟩ | ⟨tick, -, ⟨-, hf⟩ | ⟨rfl, -⟩ | ⟨-, hf⟩⟩ := exec_cases h
  · exact .inl hf
  · cases hi
  · exact .inr ⟨tick, .inl hf⟩
  · obtain ⟨hp, rfl⟩ | ⟨-, rfl⟩ := runEvent_cases h
    · rw [beginsFrame, hp, Bool.true_and] at hi
      exact .inr ⟨tick, .inr (fallFd_within hi)⟩
    · exact .inl rfl
  · exact .inl hf

/-- A run within a frame has a last state, and what every operation within a frame keeps holds there. -/
theorem execAll_keeps_within {P : State → Prop}
    (keeps : ∀ i s t, P s → beginsFrame i s = false → exec i s = .next t → P t) {is : List Instr} {s : State}
    (hs : P s) (h : withinFrame is s = true) : ∃ t, execAll is s = .next t ∧ P t := by
  induction is generalizing s with
  | nil => exact ⟨s, rfl, hs⟩
  | cons i is ih =>
    obtain ⟨hi, u, hu, hrest⟩ := withinFrame_cons h
    rw [execAll_cons_next is hu]
    exact ih (keeps i s u hs hi hu) hrest

/-- The decoder cannot report a good frame any more: no byte sum matches its checksum accumulator, and a frame already
complete has been judged a mismatch. -/
structure FdState.Spoiled (f : FdState) : Prop where
  checksum : 256 ≤ f.checksumAccum.toNat
  error : 40 ≤ f.bitIndex.toInt → f.error = .checksumMismatch

/-- A legal sentinel leaves 7 bits of the accumulator for the shifts of the checksum window, so up to the last of them
no 1 is shifted out (R30, R35). -/
theorem checksumAccum_lt_two_pow_sixteen {c : Config} (hlegal : c.Legal) {f : FdState} (hf : f.Inv c)
    (hb : f.bitIndex.toInt ≤ 39) : f.checksumAccum.toNat < 2 ^ 16 := by
  obtain ⟨-, -, -, -, hchk, -⟩ := hf
  calc f.checksumAccum.toNat
    _ < (c.chkSentinel.toNat + 1) * 2 ^ (f.bitIndex.toInt - 32).toNat := hchk
    _ ≤ 2 ^ 9 * 2 ^ 7 := Nat.mul_le_mul (Nat.succ_le_succ hlegal.2) (Nat.pow_le_pow_right (by decide) (by omega))

/-- A rising edge that finds or forces 256 or more in the checksum accumulator leaves the frame spoiled: shifting loses
no bit, and the 40th bit is judged against what results. -/
theorem riseFd_spoiled {c : Config} (hc : c.Sized) (hlegal : c.Legal) {tick : Tick} {f : FdState} (hf : f.Inv c)
    (hchk : 256 ≤ (forceChecksum c tick f).checksumAccum.toNat)
    (herr : 40 ≤ f.bitIndex.toInt → f.error = .checksumMismatch) : (riseFd c tick f).Spoiled := by
  have hchk' : 256 ≤ (riseFd c tick f).checksumAccum.toNat := by
    rw [riseFd_checksumAccum_toNat hc]
    split
    next hphase =>
      have hb := ((phaseOf_receivingChecksum hc _).1 hphase).2
      have := checksumAccum_lt_two_pow_sixteen hlegal (forceChecksum_inv hc tick hf) (by simpa using hb)
      have := (bitValue c f tick).toNat_le
      omega
    next => exact hchk
  refine ⟨hchk', fun hb => ?_⟩
  rw [riseFd_bitIndex_toInt hc] at hb
  rw [riseFd_error hc]
  by_cases h39 : f.bitIndex.toInt = 39
  · rw [if_pos h39, if_neg (by omega)]
  · have h40 : 40 ≤ f.bitIndex.toInt := by split at hb <;> omega
    rw [if_neg h39, if_neg (by omega), herr h40]

/-- The long-pulse force writes the sentinel or nothing, and a legal sentinel is 256 or more. -/
theorem forceChecksum_ge {c : Config} (hc : c.Sized) (hlegal : c.Legal) (tick : Tick) {f : FdState}
    (h : 256 ≤ f.checksumAccum.toNat) : 256 ≤ (forceChecksum c tick f).checksumAccum.toNat := by
  rw [forceChecksum_sized hc]
  split
  · exact hlegal.1
  · exact h

/-- Within a frame every operation keeps it spoiled. -/
theorem exec_keeps_spoiled {i : Instr} {s t : State} (hs : s.Inv ∧ s.fd.Spoiled) (hi : beginsFrame i s = false)
    (h : exec i s = .next t) : t.Inv ∧ t.fd.Spoiled := by
  obtain ⟨hinv, hspoiled⟩ := hs
  refine ⟨exec_keeps_inv hinv h, ?_⟩
  obtain ⟨hc, hlegal, hfd⟩ := hinv
  obtain hf | ⟨tick, hf | hf⟩ := exec_within_cases hi h <;> rw [hf]
  · exact hspoiled
  · exact riseFd_spoiled hc hlegal hfd (forceChecksum_ge hc hlegal tick hspoiled.checksum) hspoiled.error
  · exact ⟨hspoiled.checksum, hspoiled.error⟩

/-- A long pulse at position 39 or below spoils the frame: it forces the sentinel before its bit is taken (R123). -/
theorem exec_rise_long {tick : Tick} {s t : State} (hs : s.Inv) (hb : s.fd.bitIndex.toInt ≤ 39)
    (hp : dbPasses s.cfg s.db tick = true) (hlong : s.cfg.longTh ≤ tickDiff s.cfg s.fd.lastHighTick tick)
    (h : exec (.rise tick) s = .next t) : t.Inv ∧ t.fd.Spoiled := by
  refine ⟨exec_keeps_inv hs h, ?_⟩
  obtain ⟨hc, hlegal, hfd⟩ := hs
  cases (exec_rise_pass hc hp).symm.trans h
  have hforced : (forceChecksum s.cfg tick s.fd).checksumAccum = s.cfg.chkSentinel := by
    rw [forceChecksum_tickDiff hc, if_pos hlong]
  exact riseFd_spoiled hc hlegal hfd (by rw [hforced]; exact hlegal.1) (by omega)

/-- Settles O28: the long pulse spoils the frame, and what follows within the frame keeps it spoiled. -/
theorem longPulseForcesMismatch : Obligations.LongPulseForcesMismatch := by
  intro s tick is hs hb hp hlong hwithin
  obtain ⟨-, u, hu, hrest⟩ := withinFrame_cons hwithin
  obtain ⟨t, ht, -, hspoiled⟩ :=
    execAll_keeps_within (fun _ _ _ => exec_keeps_spoiled) (exec_rise_long hs hb hp hlong hu) hrest
  exact ⟨t, by rw [execAll_cons_next is hu, ht], fun h40 => hspoiled.error h40.ge⟩

/-- The decoder holds a complete frame, and READ's part of it is that of `g`. -/
structure FdState.HoldsFrameOf (f g : FdState) : Prop where
  bitIndex : f.bitIndex.toInt = 40
  humidity : f.humidityAccum = g.humidityAccum
  temperature : f.temperatureAccum = g.temperatureAccum
  error : f.error = g.error

/-- A rising edge after the 40th bit writes neither a data accumulator nor the stored error (R123). -/
theorem riseFd_holdsFrameOf {c : Config} (hc : c.Sized) (tick : Tick) {f g : FdState} (hf : f.HoldsFrameOf g) :
    (riseFd c tick f).HoldsFrameOf g := by
  obtain ⟨hb, hhum, htemp, herr⟩ := hf
  rw [riseFd, dispatchBit_complete hc _ (by rw [forceChecksum_bitIndex, hb])]
  exact ⟨rfl, by simpa using hhum, by simpa using htemp, by simpa using herr⟩

/-- Within a frame every operation keeps a completed frame, and the parameters. -/
theorem exec_keeps_frame {c : Config} (hc : c.Sized) {g : FdState} {i : Instr} {s t : State}
    (hs : s.cfg = c ∧ s.fd.HoldsFrameOf g) (hi : beginsFrame i s = false) (h : exec i s = .next t) :
    t.cfg = c ∧ t.fd.HoldsFrameOf g := by
  obtain ⟨rfl, hfd⟩ := hs
  refine ⟨(exec_cfg_stream h).1, ?_⟩
  obtain hf | ⟨tick, hf | hf⟩ := exec_within_cases hi h <;> rw [hf]
  · exact hfd
  · exact riseFd_holdsFrameOf hc tick hfd
  · exact ⟨hfd.bitIndex, hfd.humidity, hfd.temperature, hfd.error⟩

/-- READ answers the same for the same completed frame (R31, R126). -/
theorem ofRead_of_holdsFrameOf {c : Config} (hc : c.Sized) {f g : FdState} (hg : g.bitIndex.toInt = 40)
    (hf : f.HoldsFrameOf g) : Response.ofRead c f = Response.ofRead c g := by
  obtain ⟨hb, hhum, htemp, herr⟩ := hf
  simp only [Response.ofRead, classify_congr hc hc herr (by rw [hb, hg]), hhum, htemp]

/-- Settles O30: the completed frame is kept along the run, and READ shows nothing else. -/
theorem completedFrameStays : Obligations.CompletedFrameStays := by
  intro s is hc hb hwithin
  obtain ⟨t, ht, hcfg, hfd⟩ :=
    execAll_keeps_within (fun _ _ _ => exec_keeps_frame hc (g := s.fd)) ⟨rfl, hb, rfl, rfl, rfl⟩ hwithin
  exact ⟨t, ht, hfd.bitIndex, hfd.humidity, hfd.temperature, hfd.error, by
    rw [hcfg, ofRead_of_holdsFrameOf hc hb hfd]⟩

end Sys2Proof.Machine
end

section
/-! PROOFS. The refusal (R78, R170 to R173, R190): a reserved row stops every state, no other row stops any, and so
for a step by the input it takes and for a run by the rows it meets. -/

namespace Sys2Proof.Machine

/-- A row that names an operation has a next state from every state (R170). -/
theorem exec_next_of_wellFormed {i : Instr} (h : i.wellFormed = true) (s : State) : ∃ t, exec i s = .next t := by
  cases i with
  | rise tick | fall tick | either tick => exact (runEvent_rsp tick _ _ s).imp fun _ ht => ht.1
  | read | reset | tdiff => exact ⟨_, rfl⟩
  | reserved3 | reserved6 | reserved7 => cases h

/-- A row that names no operation is refused in every state (R78). -/
theorem exec_refused_of_not_wellFormed {i : Instr} (h : i.wellFormed = false) (s : State) :
    exec i s = .refused .reservedOp := by
  cases i with
  | rise | fall | either | read | reset | tdiff => cases h
  | reserved3 | reserved6 | reserved7 => rfl

/-- Only a command word with a reserved operation code is decoded to a row that names no operation (R71, R78). -/
theorem reserved_of_decode_not_wellFormed {p : PortInput} (h : (decode p).wellFormed = false) :
    ∃ w, p = .cmd w ∧ (opField w = 0b011#3 ∨ opField w = 0b110#3 ∨ opField w = 0b111#3) := by
  cases p with
  | td w => cases h
  | cmd w =>
    refine ⟨w, rfl, ?_⟩
    rw [decode] at h
    obtain hop | hop | hop | hop | hop | hop | hop | hop := opField_cases w
    · rw [decodeCmd_rise hop] at h; cases h
    · rw [decodeCmd_fall hop] at h; cases h
    · rw [decodeCmd_either hop] at h; cases h
    · exact .inl hop
    · rw [decodeCmd_read hop] at h; cases h
    · rw [decodeCmd_reset hop] at h; cases h
    · exact .inr (.inl hop)
    · exact .inr (.inr hop)

/-- A host keeps to operations when the oldest input names one, and so does every later one (R190 (b)). -/
theorem hostKeepsToOperations_of_stream_cons {s : State} {p : PortInput} {rest : List PortInput}
    (h : s.stream = p :: rest) : s.hostKeepsToOperations = true ↔
      (decode p).wellFormed = true ∧ (rest.all fun q => (decode q).wellFormed) = true := by
  rw [State.hostKeepsToOperations, h, List.all_cons, Bool.and_eq_true]

/-- A step goes on, or refuses a reserved command word: the input it takes decides (R170, R172, R173). -/
theorem step_next_or_refused (s : State) : (∃ t, step s = .next t) ∨
    (step s = .refused .reservedOp ∧ ∃ (w : CmdWord) (rest : List PortInput), s.stream = .cmd w :: rest ∧
      (opField w = 0b011#3 ∨ opField w = 0b110#3 ∨ opField w = 0b111#3)) := by
  cases hs : s.stream with
  | nil => exact .inl ⟨s, step_of_stream_nil hs⟩
  | cons p rest =>
    rw [step_of_stream_cons hs]
    cases hp : (decode p).wellFormed with
    | true => exact .inl (exec_next_of_wellFormed hp _)
    | false =>
      obtain ⟨w, rfl, hop⟩ := reserved_of_decode_not_wellFormed hp
      exact .inr ⟨exec_refused_of_not_wellFormed hp _, w, rest, rfl, hop⟩

/-- A host that keeps to operations is not stopped, and what it has still presented are operations (R190 (b)). -/
theorem step_next_of_hostKeepsToOperations {s : State} (h : s.hostKeepsToOperations = true) :
    ∃ t, step s = .next t ∧ t.hostKeepsToOperations = true := by
  cases hs : s.stream with
  | nil => exact ⟨s, step_of_stream_nil hs, h⟩
  | cons p rest =>
    obtain ⟨hp, hrest⟩ := (hostKeepsToOperations_of_stream_cons hs).1 h
    obtain ⟨t, ht⟩ := exec_next_of_wellFormed hp { s with stream := rest }
    refine ⟨t, by rw [step_of_stream_cons hs, ht], ?_⟩
    rw [State.hostKeepsToOperations, (exec_cfg_stream ht).2]
    exact hrest

/-- Settles O23: a step is decided by whether the input it takes names an operation. -/
theorem onlyReservedStops : Obligations.OnlyReservedStops :=
  ⟨step_next_or_refused, fun _ => step_next_of_hostKeepsToOperations⟩

/-- A run that has gone on to a state runs the rest from there (R58). -/
theorem execAll_append_of_next {before : List Instr} (after : List Instr) {s t : State}
    (h : execAll before s = .next t) : execAll (before ++ after) s = execAll after t := by
  induction before generalizing s with
  | nil => cases h; rfl
  | cons i is ih =>
    cases hi : exec i s with
    | next u =>
      rw [execAll_cons_next is hi] at h
      rw [List.cons_append, execAll_cons_next _ hi, ih h]
    | fault r => exact absurd hi (exec_ne_fault i s r)
    | refused r => rw [execAll_cons_refused is hi] at h; cases h

/-- A run goes on to a state, or is refused for a reserved row (R173). -/
theorem execAll_next_or_refused (is : List Instr) (s : State) :
    (∃ t, execAll is s = .next t) ∨ execAll is s = .refused .reservedOp := by
  induction is generalizing s with
  | nil => exact .inl ⟨s, rfl⟩
  | cons i is ih =>
    cases hi : i.wellFormed with
    | true =>
      obtain ⟨t, ht⟩ := exec_next_of_wellFormed hi s
      rw [execAll_cons_next is ht]
      exact ih t
    | false => exact .inr (execAll_cons_refused is (exec_refused_of_not_wellFormed hi s))

/-- Settles O24: induction along the run, and the refusal by the row that meets it, whatever is after it. -/
theorem refusalIsForGood : Obligations.RefusalIsForGood := by
  refine ⟨execAll_next_or_refused, fun before after i s t hbefore hi => ?_⟩
  rw [execAll_append_of_next _ hbefore]
  exact execAll_cons_refused after (exec_refused_of_not_wellFormed hi t)

end Sys2Proof.Machine
end

section
/-! PROOFS. RESET (R200 to R202): the state it writes is the one power-on leaves, and its values in a block of the sizes
of R5. -/

namespace Sys2Proof.Machine

/-- RESET writes what power-on leaves and drives nothing; the parameters stay, and so does the model's record of the
other ports (R200 to R202). -/
theorem exec_reset (s : State) : exec .reset s = .next { s with
    fd := (State.powerOn s.cfg).fd, db := (State.powerOn s.cfg).db, rsp := Response.undriven } := rfl

/-- The reset values of R20, with the pre-frame sentinel that R5 gives. -/
theorem FdState.initial_of_sized {c : Config} (h : c.Sized) :
    FdState.initial c =
      { bitIndex := BitVec.ofInt 8 (-2), checksumAccum := 0, temperatureAccum := 0, humidityAccum := 0,
        lastHighTick := 0, error := .noError } := by
  rw [FdState.initial, sized_preframe h]
  rfl

/-- Settles O19: the word by its operation code, and RESET's effect with the sentinel at its value of R5. -/
theorem resetRule : Obligations.ResetRule := by
  intro tick s hc
  refine ⟨decode_reset tick, ?_, powerOn_cfg⟩
  rw [exec_reset, powerOn_fd, FdState.initial_of_sized hc]
  rfl

/-- Settles O20: RESET's effect is written with the fields of power-on, and the parameters stay. -/
theorem powerOnIsReset : Obligations.PowerOnIsReset := by
  rintro c s rfl
  exact ⟨_, exec_reset s, rfl, rfl, (powerOn_cfg s.cfg).symm⟩

end Sys2Proof.Machine
end
